-- ==== Sys2Proof/Word.lean ====
section
/-! DEFINITION. The value types of rule R4 (`00_scope.md`): bytes and characters of 8 bits, symbol indices of 6 bits, the packed value of 24 bits. All are unsigned, bit 0 least significant (R7). -/

namespace Sys2Proof

/-- `BYTE_W` = `CHAR_W` = 8: a byte of a sequence, or a character carried as its 8-bit code (R4, D2). -/
abbrev Byte := BitVec 8

/-- `SYM_W` = 6: the index of a symbol of the alphabet, 0 to 63 (R4). -/
abbrev Sym := BitVec 6

/-- `PACK_W` = 24: the packed intermediate value of a group (R4). -/
abbrev Packed := BitVec 24

end Sys2Proof
end

