-- ==== Sys2Proof/Config.lean ====
section
/-! DEFINITION. What is fixed for the hardware: its three units (R1), the fixed parameters of R4, and the one open parameter `T_PD` of R5, which has no body. -/

namespace Sys2Proof

/-- The three units of the block (R1, R6). -/
inductive UnitId where
  /-- Unit E, `base64_encoder_combinational`. -/
  | encoder
  /-- Unit V, `base64_padding_validator`. -/
  | validator
  /-- Unit D, `base64_decoder_combinational`. -/
  | decoder
deriving DecidableEq, Repr

namespace Config

/-- `GROUP_BYTES` (R4). -/
abbrev groupBytes : Nat := 3

/-- `GROUP_SYMS` (R4). -/
abbrev groupSyms : Nat := 4

/-- `ALPHA_N` (R4). -/
abbrev alphaN : Nat := 64

/-- `MAX_PAD`, the largest number of pad characters of a group (R4). -/
abbrev maxPad : Nat := 2

/-- `PAD_CHAR`, the character `=` (R4, R51). -/
def padChar : Byte := 0x3D#8

/-- Width of a unit's input bundle: `EIN` has 26 bits (R55), `GIN` has 34 (R57). -/
def bundleWidth : UnitId → Nat
  | .encoder => 26
  | .validator => 34
  | .decoder => 34

/-- The settling time of a unit less one unit of time: FREE, no body. R5 leaves `T_PD` open and asks only that it is positive (D20). -/
opaque settlePred : UnitId → Nat

/-- `T_PD` of a unit, a positive time in whatever unit the implementation measures (R5, D20). No rule's result depends on it. -/
def tPD (u : UnitId) : Nat := settlePred u + 1

end Config

end Sys2Proof
end

