-- ==== Sys2Proof/Syntax.lean ====
section
/-! DEFINITION. The ten operations of R60 (`30_encoding.md`) with all the lanes of their input bundles, ignored ones too (R63), and the input bundles themselves (R55, R57). -/

namespace Sys2Proof

/-- An operation is a unit together with the value of its control field (R60); the other lanes of the bundle are its operands. -/
inductive Instr where
  /-- `ENC0` (R84): no real byte; all three lanes are ignored. -/
  | enc0 (b0 b1 b2 : Byte)
  /-- `ENC1` (R83): one real byte; lanes 1 and 2 are ignored. -/
  | enc1 (b0 b1 b2 : Byte)
  /-- `ENC2` (R82): two real bytes; lane 2 is ignored. -/
  | enc2 (b0 b1 b2 : Byte)
  /-- `ENC3` (R81): three real bytes. -/
  | enc3 (b0 b1 b2 : Byte)
  /-- `VAL.MID` (R102): check a full group that is not the final one. -/
  | valMid (c0 c1 c2 c3 : Byte)
  /-- `VAL.LAST` (R103): check a full final group. -/
  | valLast (c0 c1 c2 c3 : Byte)
  /-- `VAL.SHORT` (R104): the string ended inside this group; `last` and all lanes are ignored. -/
  | valShort (last : Bool) (c0 c1 c2 c3 : Byte)
  /-- `DEC.MID` (R122): decode a full group that is not the final one. -/
  | decMid (c0 c1 c2 c3 : Byte)
  /-- `DEC.LAST` (R123): decode a full final group. -/
  | decLast (c0 c1 c2 c3 : Byte)
  /-- `DEC.SHORT` (R124): the string ended inside this group; `last` and all lanes are ignored. -/
  | decShort (last : Bool) (c0 c1 c2 c3 : Byte)
deriving DecidableEq, Repr

/-- The unit that performs an operation: part of the operation's identity (R60). -/
def Instr.unit : Instr → UnitId
  | .enc0 _ _ _ => .encoder
  | .enc1 _ _ _ => .encoder
  | .enc2 _ _ _ => .encoder
  | .enc3 _ _ _ => .encoder
  | .valMid _ _ _ _ => .validator
  | .valLast _ _ _ _ => .validator
  | .valShort _ _ _ _ _ => .validator
  | .decMid _ _ _ _ => .decoder
  | .decLast _ _ _ _ => .decoder
  | .decShort _ _ _ _ _ => .decoder

/-- What the environment presents: a unit and its input bundle, `EIN` (R55) for unit E, `GIN` (R57) for units V and D. V and D have the same bundle format, so the unit cannot be read from the bits (R60). -/
inductive Bundle where
  | e (ein : BitVec 26)
  | v (gin : BitVec 34)
  | d (gin : BitVec 34)
deriving DecidableEq, Repr

def Bundle.unit : Bundle → UnitId
  | .e _ => .encoder
  | .v _ => .validator
  | .d _ => .decoder

/-- The bundle's bits as a number, bit 0 least significant (R7). -/
def Bundle.toNat : Bundle → Nat
  | .e x => x.toNat
  | .v x => x.toNat
  | .d x => x.toNat

end Sys2Proof
end

