-- ==== Sys2Proof/WellFormed.lean ====
section
/-! DEFINITION. The checks on what the environment may hand over. An operation on its own has no ill-formed value: every value of every operand is legal (R60, R63, U14), and the operand types already have the ports' widths. What can be ill formed is a raw word wider than the unit's bundle, and a sequence of operations that breaks the stream contract (R146). -/

namespace Sys2Proof

/-- A raw word is an input bundle of a unit when it has no bit at or above the bundle's width (R55, R57). -/
def wordWf (u : UnitId) (w : Nat) : Bool := decide (w < 2 ^ Config.bundleWidth u)

/-- A non-final group of an encoder stream is `ENC3` (R140, R146 item 2). -/
def Instr.encodesMiddle : Instr → Bool
  | .enc3 _ _ _ => true
  | .enc0 _ _ _ => false
  | .enc1 _ _ _ => false
  | .enc2 _ _ _ => false
  | .valMid _ _ _ _ => false
  | .valLast _ _ _ _ => false
  | .valShort _ _ _ _ _ => false
  | .decMid _ _ _ _ => false
  | .decLast _ _ _ _ => false
  | .decShort _ _ _ _ _ => false

/-- The final group of an encoder stream is `ENC1`, `ENC2` or `ENC3`, never `ENC0` (R140, R146 item 2). -/
def Instr.encodesFinal : Instr → Bool
  | .enc1 _ _ _ => true
  | .enc2 _ _ _ => true
  | .enc3 _ _ _ => true
  | .enc0 _ _ _ => false
  | .valMid _ _ _ _ => false
  | .valLast _ _ _ _ => false
  | .valShort _ _ _ _ _ => false
  | .decMid _ _ _ _ => false
  | .decLast _ _ _ _ => false
  | .decShort _ _ _ _ _ => false

/-- A non-final group of a stream of unit `u` (V or D) is `.MID` (R143, R146 items 3 and 4). -/
def Instr.checksMiddle (u : UnitId) : Instr → Bool
  | .valMid _ _ _ _ => decide (u = .validator)
  | .decMid _ _ _ _ => decide (u = .decoder)
  | .enc0 _ _ _ => false
  | .enc1 _ _ _ => false
  | .enc2 _ _ _ => false
  | .enc3 _ _ _ => false
  | .valLast _ _ _ _ => false
  | .valShort _ _ _ _ _ => false
  | .decLast _ _ _ _ => false
  | .decShort _ _ _ _ _ => false

/-- The final group of a stream of unit `u` (V or D) is `.LAST`, or `.SHORT` with `last = 1` (R143, R146 items 3 and 4). -/
def Instr.checksFinal (u : UnitId) : Instr → Bool
  | .valLast _ _ _ _ => decide (u = .validator)
  | .valShort last _ _ _ _ => last && decide (u = .validator)
  | .decLast _ _ _ _ => decide (u = .decoder)
  | .decShort last _ _ _ _ => last && decide (u = .decoder)
  | .enc0 _ _ _ => false
  | .enc1 _ _ _ => false
  | .enc2 _ _ _ => false
  | .enc3 _ _ _ => false
  | .valMid _ _ _ _ => false
  | .decMid _ _ _ _ => false

/-- The sequence of operations of an encoder stream obeys R146 item 2. The empty stream makes no evaluation (R142). -/
def encodeStreamWf : List Instr → Bool
  | [] => true
  | [i] => i.encodesFinal
  | i :: j :: rest => i.encodesMiddle && encodeStreamWf (j :: rest)

/-- The sequence of operations of a validator or decoder stream obeys R146 items 3 and 4. -/
def checkStreamWf (u : UnitId) : List Instr → Bool
  | [] => true
  | [i] => i.checksFinal u
  | i :: j :: rest => i.checksMiddle u && checkStreamWf u (j :: rest)

end Sys2Proof
end

