-- ==== Sys2Proof/Decode.lean ====
section
/-! DEFINITION. Bundles to operations and back (R55, R57, R60): the decoder, total on any word of any unit, and the encoder written from the same table; and the opcode table's mask and pattern rows. -/

namespace Sys2Proof

/-- Why a raw word is no input bundle of a unit. -/
inductive DecodeError where
  /-- The word has a bit at or above the width of the unit's bundle; the hardware has no such port bit (R55, R57). -/
  | bitsAboveBundle
deriving DecidableEq, Repr

/-! ### The encoder's side: bundles from fields -/

/-- `EIN = {enc_len_i, enc_b0_i, enc_b1_i, enc_b2_i}` (R55). -/
def einOf (len : BitVec 2) (b0 b1 b2 : Byte) : BitVec 26 := len ++ b0 ++ b1 ++ b2

/-- `GIN = {full, last, c0, c1, c2, c3}` (R57). -/
def ginOf (full last : Bool) (c0 c1 c2 c3 : Byte) : BitVec 34 :=
  BitVec.ofBool full ++ BitVec.ofBool last ++ c0 ++ c1 ++ c2 ++ c3

/-! ### Decoding -/

/-- The operation of unit E that a value of `EIN` selects: `EIN[25:24]` is the whole opcode (R60). -/
def decodeEin (x : BitVec 26) : Instr :=
  let b0 := x.extractLsb' 16 8
  let b1 := x.extractLsb' 8 8
  let b2 := x.extractLsb' 0 8
  if x.extractLsb' 24 2 = 0b00#2 then .enc0 b0 b1 b2
  else if x.extractLsb' 24 2 = 0b01#2 then .enc1 b0 b1 b2
  else if x.extractLsb' 24 2 = 0b10#2 then .enc2 b0 b1 b2
  else .enc3 b0 b1 b2

/-- The operation of unit V that a value of `GIN` selects: `GIN[33:32]` (R60). -/
def decodeValGin (x : BitVec 34) : Instr :=
  let c0 := x.extractLsb' 24 8
  let c1 := x.extractLsb' 16 8
  let c2 := x.extractLsb' 8 8
  let c3 := x.extractLsb' 0 8
  if x.getLsbD 33 then
    if x.getLsbD 32 then .valLast c0 c1 c2 c3 else .valMid c0 c1 c2 c3
  else .valShort (x.getLsbD 32) c0 c1 c2 c3

/-- The operation of unit D that a value of `GIN` selects: `GIN[33:32]` (R60). -/
def decodeDecGin (x : BitVec 34) : Instr :=
  let c0 := x.extractLsb' 24 8
  let c1 := x.extractLsb' 16 8
  let c2 := x.extractLsb' 8 8
  let c3 := x.extractLsb' 0 8
  if x.getLsbD 33 then
    if x.getLsbD 32 then .decLast c0 c1 c2 c3 else .decMid c0 c1 c2 c3
  else .decShort (x.getLsbD 32) c0 c1 c2 c3

/-- Every value of every input bundle selects exactly one operation of its unit: "there is no unassigned pattern" (R60). -/
def decode : Bundle → Instr
  | .e x => decodeEin x
  | .v x => decodeValGin x
  | .d x => decodeDecGin x

/-- The low bits of a word as a bundle of a unit. -/
def bundleOf : UnitId → Nat → Bundle
  | .encoder, w => .e (BitVec.ofNat 26 w)
  | .validator, w => .v (BitVec.ofNat 34 w)
  | .decoder, w => .d (BitVec.ofNat 34 w)

/-- A raw word as a bundle of a unit, refused by name when it has bits the bundle does not have. -/
def bundleOfWord (u : UnitId) (w : Nat) : Except DecodeError Bundle :=
  if wordWf u w then .ok (bundleOf u w) else .error .bitsAboveBundle

/-- Decoding of a raw word of a unit, total on any number. -/
def decodeWord (u : UnitId) (w : Nat) : Except DecodeError Instr :=
  (bundleOfWord u w).map decode

/-! ### Encoding -/

/-- The input bundle the environment drives for an operation (R55, R57, R60). -/
def encode : Instr → Bundle
  | .enc0 b0 b1 b2 => .e (einOf 0b00#2 b0 b1 b2)
  | .enc1 b0 b1 b2 => .e (einOf 0b01#2 b0 b1 b2)
  | .enc2 b0 b1 b2 => .e (einOf 0b10#2 b0 b1 b2)
  | .enc3 b0 b1 b2 => .e (einOf 0b11#2 b0 b1 b2)
  | .valMid c0 c1 c2 c3 => .v (ginOf true false c0 c1 c2 c3)
  | .valLast c0 c1 c2 c3 => .v (ginOf true true c0 c1 c2 c3)
  | .valShort last c0 c1 c2 c3 => .v (ginOf false last c0 c1 c2 c3)
  | .decMid c0 c1 c2 c3 => .d (ginOf true false c0 c1 c2 c3)
  | .decLast c0 c1 c2 c3 => .d (ginOf true true c0 c1 c2 c3)
  | .decShort last c0 c1 c2 c3 => .d (ginOf false last c0 c1 c2 c3)

/-! ### The words of spec/opcode_table.json -/

/-- The bundle a word of `nbits` bits of the opcode table stands for. Rows of 26 bits are unit E's. Rows of 34 bits are of V and of D with the same patterns, and the word does not say which unit is meant (R60): DESIGN CHOICE, it is read as unit V's (log entry 4). -/
def tableBundle (nbits w : Nat) : Option Bundle :=
  if nbits ≤ 32 then (bundleOfWord .encoder w).toOption else (bundleOfWord .validator w).toOption

/-- The operation the decoder reads from a word numbered as the opcode table numbers it. -/
def decodeTableWord (nbits w : Nat) : Option Instr := (tableBundle nbits w).map decode

/-- One row of the operation map (R60) as a mask and a pattern over the unit's input bundle. -/
structure OpRow where
  unit : UnitId
  mnemonic : String
  mask : Nat
  pattern : Nat
deriving DecidableEq, Repr

/-- A bundle lies in a row: same unit, and the masked bits equal the pattern. -/
def OpRow.covers (r : OpRow) (b : Bundle) : Bool :=
  decide (b.unit = r.unit) && decide (b.toNat &&& r.mask = r.pattern)

/-- The row of an operation, its selecting bits copied from the table of R60. -/
def opRow : Instr → OpRow
  | .enc0 _ _ _ => ⟨.encoder, "ENC0", 0x3000000, 0x0000000⟩
  | .enc1 _ _ _ => ⟨.encoder, "ENC1", 0x3000000, 0x1000000⟩
  | .enc2 _ _ _ => ⟨.encoder, "ENC2", 0x3000000, 0x2000000⟩
  | .enc3 _ _ _ => ⟨.encoder, "ENC3", 0x3000000, 0x3000000⟩
  | .valMid _ _ _ _ => ⟨.validator, "VAL.MID", 0x300000000, 0x200000000⟩
  | .valLast _ _ _ _ => ⟨.validator, "VAL.LAST", 0x300000000, 0x300000000⟩
  | .valShort _ _ _ _ _ => ⟨.validator, "VAL.SHORT", 0x200000000, 0x000000000⟩
  | .decMid _ _ _ _ => ⟨.decoder, "DEC.MID", 0x300000000, 0x200000000⟩
  | .decLast _ _ _ _ => ⟨.decoder, "DEC.LAST", 0x300000000, 0x300000000⟩
  | .decShort _ _ _ _ _ => ⟨.decoder, "DEC.SHORT", 0x200000000, 0x000000000⟩

/-- The whole operation map (R60), one row per operation, in the table's order. -/
def opTable : List OpRow :=
  [opRow (.enc0 0 0 0), opRow (.enc1 0 0 0), opRow (.enc2 0 0 0), opRow (.enc3 0 0 0),
   opRow (.valMid 0 0 0 0), opRow (.valLast 0 0 0 0), opRow (.valShort false 0 0 0 0),
   opRow (.decMid 0 0 0 0), opRow (.decLast 0 0 0 0), opRow (.decShort false 0 0 0 0)]

end Sys2Proof
end

