-- ==== Sys2Proof/Machine/State.lean ====
section
/-! DEFINITION. The state: the levels on the ports of the three units (R14, R15, R16), and which unit the environment evaluates next. The block itself has no architectural state (R10); a step is one evaluation of one unit (R6). -/

namespace Sys2Proof.Machine

/-- Input ports of unit E (R14). -/
structure EncIn where
  /-- `enc_len_i`: number of real bytes of the group. -/
  len : BitVec 2
  /-- `enc_b0_i`, the earliest byte. -/
  b0 : Byte
  /-- `enc_b1_i`. -/
  b1 : Byte
  /-- `enc_b2_i`. -/
  b2 : Byte
deriving DecidableEq, Repr

/-- Output ports of unit E (R14). -/
structure EncOut where
  /-- `enc_nsym_o`: number of characters the group contributes. -/
  nsym : BitVec 3
  /-- `enc_s0_o`, the earliest character. -/
  s0 : Byte
  /-- `enc_s1_o`. -/
  s1 : Byte
  /-- `enc_s2_o`. -/
  s2 : Byte
  /-- `enc_s3_o`. -/
  s3 : Byte
deriving DecidableEq, Repr

/-- Input ports of unit V (R15) and of unit D (R16), each with its own set: format G (R57). -/
structure GroupIn where
  /-- `val_full_i`, `dec_full_i`: all four lanes hold characters of the string. -/
  full : Bool
  /-- `val_last_i`, `dec_last_i`: this is the final group of the string. -/
  last : Bool
  /-- Character lane 0, the earliest. -/
  c0 : Byte
  /-- Character lane 1. -/
  c1 : Byte
  /-- Character lane 2. -/
  c2 : Byte
  /-- Character lane 3. -/
  c3 : Byte
deriving DecidableEq, Repr

/-- Output ports of unit V (R15). -/
structure ValOut where
  /-- `val_err_o`: InvalidBase64Format. -/
  err : Bool
  /-- `val_cause_o`: bit 0 CHAR, bit 1 LEN, bit 2 PAD (R101). -/
  cause : BitVec 3
  /-- `val_pad_o`: trailing pad characters of a valid final group. -/
  pad : BitVec 2
deriving DecidableEq, Repr

/-- Output ports of unit D (R16). -/
structure DecOut where
  /-- `dec_err_o`. -/
  err : Bool
  /-- `dec_cause_o`. -/
  cause : BitVec 3
  /-- `dec_pad_o`. -/
  pad : BitVec 2
  /-- `dec_len_o`: number of bytes the group contributes. -/
  len : BitVec 2
  /-- `dec_b0_o`, the earliest byte. -/
  b0 : Byte
  /-- `dec_b1_o`. -/
  b1 : Byte
  /-- `dec_b2_o`. -/
  b2 : Byte
deriving DecidableEq, Repr

/-- The levels on all ports, and the environment's selection of a unit. Output levels stand beside the input levels they follow (R10, R17, R20; log entry 5): `State.Settled` says that they do, and every presentation, operation and step keeps it. -/
structure State where
  /-- The unit the environment evaluates next: the model's own field (log entry 2). "The environment selects a unit by wiring to it" (R60). -/
  sel : UnitId
  encIn : EncIn
  encOut : EncOut
  valIn : GroupIn
  valOut : ValOut
  decIn : GroupIn
  decOut : DecOut
deriving DecidableEq, Repr

/-- The ways the machine can stop with a fault: none. "There are no reserved or trapping operation codes" (R63), and the one error is a level on output ports for as long as the offending inputs are present (R170, R175). -/
inductive Fault : Type where
deriving DecidableEq, Repr

/-- The ways a step can be refused. -/
inductive Refusal where
  /-- Raised by an arm of `exec` whose instruction has no meaning yet; no arm raises it now. Safe: the machine stops where the hardware goes on. -/
  | notModelled (mnemonic : String)
deriving DecidableEq, Repr

/-- The answer of an evaluation. -/
abbrev Result := Host.Outcome State Fault Refusal

/-- The state from which a run begins. There is no reset input and nothing to reset (R190); the levels the environment drives at power-up are not the spec's, DESIGN CHOICE: all input bits 0 and unit E selected (log entries 1 and 2). The outputs are what the rules give for those inputs (R20, R192): ENC0, VAL.SHORT, DEC.SHORT. -/
def State.reset : State where
  sel := .encoder
  encIn := ⟨0, 0, 0, 0⟩
  encOut := ⟨0, 0, 0, 0, 0⟩
  valIn := ⟨false, false, 0, 0, 0, 0⟩
  valOut := ⟨true, 0b010#3, 0⟩
  decIn := ⟨false, false, 0, 0, 0, 0⟩
  decOut := ⟨true, 0b010#3, 0, 0, 0, 0, 0⟩

end Sys2Proof.Machine
end

