-- ==== Sys2Proof/Machine/Operands.lean ====
section
/-! DEFINITION. Operand assembly: the constant tables `ALPHA` and `CLASS` (R50 to R54), and the packing and slicing of the 24-bit value (R61, R62). -/

namespace Sys2Proof.Machine

/-- What a character code stands for (R53). -/
inductive CharClass where
  /-- A symbol of the alphabet, with its index. -/
  | sym (idx : Sym)
  /-- The pad character `=`. -/
  | pad
  /-- "Character outside the alphabet-plus-padding set". -/
  | bad
deriving DecidableEq, Repr

/-- `ALPHA`: the code of each symbol in index order, `A`–`Z`, `a`–`z`, `0`–`9`, `+`, `/` (R50). -/
def alpha : List Byte :=
  [0x41, 0x42, 0x43, 0x44, 0x45, 0x46, 0x47, 0x48, 0x49, 0x4A, 0x4B, 0x4C, 0x4D] ++
  [0x4E, 0x4F, 0x50, 0x51, 0x52, 0x53, 0x54, 0x55, 0x56, 0x57, 0x58, 0x59, 0x5A] ++
  [0x61, 0x62, 0x63, 0x64, 0x65, 0x66, 0x67, 0x68, 0x69, 0x6A, 0x6B, 0x6C, 0x6D] ++
  [0x6E, 0x6F, 0x70, 0x71, 0x72, 0x73, 0x74, 0x75, 0x76, 0x77, 0x78, 0x79, 0x7A] ++
  [0x30, 0x31, 0x32, 0x33, 0x34, 0x35, 0x36, 0x37, 0x38, 0x39, 0x2B, 0x2F]

/-- `sym_to_char(idx)`, that is `ALPHA[idx]` (R52). The list has 64 entries, so the default is never read. -/
def symToChar (idx : Sym) : Byte := alpha.getD idx.toNat 0

/-- `CLASS[ch]` (R53), with the comparisons unsigned and each subtraction taken only inside its range test (R9). -/
def classOf (ch : Byte) : CharClass :=
  if 0x41#8 ≤ ch ∧ ch ≤ 0x5A#8 then .sym ((ch - 0x41#8).setWidth 6)
  else if 0x61#8 ≤ ch ∧ ch ≤ 0x7A#8 then .sym ((ch - 0x61#8 + 26#8).setWidth 6)
  else if 0x30#8 ≤ ch ∧ ch ≤ 0x39#8 then .sym ((ch - 0x30#8 + 52#8).setWidth 6)
  else if ch = 0x2B#8 then .sym 62#6
  else if ch = 0x2F#8 then .sym 63#6
  else if ch = Config.padChar then .pad
  else .bad

/-- `idx6(ch)`: the 6 bits a character contributes to the decoder's packing; `PAD` and `BAD` contribute zeros (R54). -/
def idx6 (ch : Byte) : Sym :=
  match classOf ch with
  | .sym idx => idx
  | .pad => 0
  | .bad => 0

/-! ### Encoder packing and fields (R61) -/

/-- `pack3(e0, e1, e2) = (zext_24(e0) << 16) | (zext_24(e1) << 8) | zext_24(e2)`. -/
def pack3 (e0 e1 e2 : Byte) : Packed :=
  (e0.setWidth 24 <<< 16) ||| (e1.setWidth 24 <<< 8) ||| e2.setWidth 24

/-- `f0 = v[23:18]`. -/
def field0 (v : Packed) : Sym := v.extractLsb' 18 6
/-- `f1 = v[17:12]`. -/
def field1 (v : Packed) : Sym := v.extractLsb' 12 6
/-- `f2 = v[11:6]`. -/
def field2 (v : Packed) : Sym := v.extractLsb' 6 6
/-- `f3 = v[5:0]`. -/
def field3 (v : Packed) : Sym := v.extractLsb' 0 6

/-- The packed value of unit E: byte lanes at and above `enc_len_i` are masked to zero (R80). -/
def encPack (len : BitVec 2) (b0 b1 b2 : Byte) : Packed :=
  let e0 := b0
  let e1 := if 2#2 ≤ len then b1 else 0
  let e2 := if len = 3#2 then b2 else 0
  pack3 e0 e1 e2

/-! ### Decoder packing and bytes (R62) -/

/-- `pack4(i0, i1, i2, i3) = (zext_24(i0) << 18) | (zext_24(i1) << 12) | (zext_24(i2) << 6) | zext_24(i3)`. -/
def pack4 (i0 i1 i2 i3 : Sym) : Packed :=
  (i0.setWidth 24 <<< 18) ||| (i1.setWidth 24 <<< 12) ||| (i2.setWidth 24 <<< 6) ||| i3.setWidth 24

/-- `y0 = v[23:16]`. -/
def byte0 (v : Packed) : Byte := v.extractLsb' 16 8
/-- `y1 = v[15:8]`. -/
def byte1 (v : Packed) : Byte := v.extractLsb' 8 8
/-- `y2 = v[7:0]`. -/
def byte2 (v : Packed) : Byte := v.extractLsb' 0 8

/-- `dec_core`, the unguarded datapath of unit D (R120). -/
def decCore (c0 c1 c2 c3 : Byte) : Packed := pack4 (idx6 c0) (idx6 c1) (idx6 c2) (idx6 c3)

end Sys2Proof.Machine
end

