-- ==== Sys2Proof/Machine/Ops.lean ====
section
/-! DEFINITION. The shared operations over the ports: driving a unit's ports, what a unit drives on InvalidBase64Format, bundles against input ports, what a step reads, and the output bundles. -/

namespace Sys2Proof.Machine

/-! ### One evaluation leaves its unit's ports at these levels

"It reads nothing but its inputs and the constant alphabet table and writes nothing but its outputs" (R6); every output is assigned exactly once (R8). -/

/-- Unit E evaluated: its inputs as presented, its outputs as computed, and E the unit at hand. -/
def State.putE (i : EncIn) (o : EncOut) (s : State) : State :=
  { s with sel := .encoder, encIn := i, encOut := o }

/-- Unit V evaluated. -/
def State.putV (i : GroupIn) (o : ValOut) (s : State) : State :=
  { s with sel := .validator, valIn := i, valOut := o }

/-- Unit D evaluated. -/
def State.putD (i : GroupIn) (o : DecOut) (s : State) : State :=
  { s with sel := .decoder, decIn := i, decOut := o }

/-! ### Taking the one exception

`raise InvalidBase64Format(cause)` at unit level is to "drive `err_o = 1` with the cause bits and the zeroed data outputs" (R8, R175). It "saves nothing, changes no mode and transfers no control" (R175), and "there is no return operation and nothing to restore" (R177). -/

/-- What unit V drives on the error (R175). -/
def raiseInvalid (cause : BitVec 3) : ValOut := { err := true, cause := cause, pad := 0 }

/-- What unit D drives on the error: V's part, no bytes, and zeroed lanes (R125, R175). -/
def raiseInvalidD (cause : BitVec 3) : DecOut :=
  let r := raiseInvalid cause
  { err := r.err, cause := r.cause, pad := r.pad, len := 0, b0 := 0, b1 := 0, b2 := 0 }

/-- "Validation comes first and gates everything" (R121): the data outputs of a group are driven only when the verdict is no error. -/
def gate (v : ValOut) (len : BitVec 2) (b0 b1 b2 : Byte) : DecOut :=
  if v.err then raiseInvalidD v.cause
  else { err := v.err, cause := v.cause, pad := v.pad, len := len, b0 := b0, b1 := b1, b2 := b2 }

/-! ### The environment's side of a step -/

/-- The levels a bundle `EIN` puts on unit E's input ports (R55). -/
def EncIn.ofEin (x : BitVec 26) : EncIn :=
  ⟨x.extractLsb' 24 2, x.extractLsb' 16 8, x.extractLsb' 8 8, x.extractLsb' 0 8⟩

/-- The levels a bundle `GIN` puts on a set of format G input ports (R57). -/
def GroupIn.ofGin (x : BitVec 34) : GroupIn :=
  ⟨x.getLsbD 33, x.getLsbD 32, x.extractLsb' 24 8, x.extractLsb' 16 8, x.extractLsb' 8 8, x.extractLsb' 0 8⟩

/-- Unit E's input ports as the bundle `EIN` (R55). -/
def EncIn.ein (i : EncIn) : BitVec 26 := einOf i.len i.b0 i.b1 i.b2

/-- A set of format G input ports as the bundle `GIN` (R57). -/
def GroupIn.gin (i : GroupIn) : BitVec 34 := ginOf i.full i.last i.c0 i.c1 i.c2 i.c3

/-- What stands on the input ports of the unit at hand: the counterpart of an instruction fetch on hardware that has none (R12, R42). -/
def State.fetch (s : State) : Bundle :=
  match s.sel with
  | .encoder => .e s.encIn.ein
  | .validator => .v s.valIn.gin
  | .decoder => .d s.decIn.gin

/-! ### Output bundles (R56, R58, R59) -/

/-- `EOUT = {enc_nsym_o, enc_s0_o, enc_s1_o, enc_s2_o, enc_s3_o}`, 35 bits (R56). -/
def EncOut.eout (o : EncOut) : BitVec 35 := o.nsym ++ o.s0 ++ o.s1 ++ o.s2 ++ o.s3

/-- `VOUT = {val_err_o, val_cause_o, val_pad_o}`, 6 bits (R58). -/
def ValOut.vout (o : ValOut) : BitVec 6 := BitVec.ofBool o.err ++ o.cause ++ o.pad

/-- `DOUT = {dec_err_o, dec_cause_o, dec_pad_o, dec_len_o, dec_b0_o, dec_b1_o, dec_b2_o}`, 32 bits (R59). -/
def DecOut.dout (o : DecOut) : BitVec 32 :=
  BitVec.ofBool o.err ++ o.cause ++ o.pad ++ o.len ++ o.b0 ++ o.b1 ++ o.b2

end Sys2Proof.Machine
end

