-- ==== Sys2Proof/Machine/Flags.lean ====
section
/-! DEFINITION. The status computations of unit V (R100 to R104), which unit D contains a copy of (R121): lane classes, pad mask, cause bits, verdict. -/

namespace Sys2Proof.Machine

/-- `bad_j`: the lane's class is `BAD` (R100). -/
def laneBad (c : Byte) : Bool := decide (classOf c = .bad)

/-- `m_j`: the lane's class is `PAD` (R100). -/
def lanePad (c : Byte) : Bool := decide (classOf c = .pad)

/-- `any_bad` (R100). -/
def anyBad (c0 c1 c2 c3 : Byte) : Bool := laneBad c0 || laneBad c1 || laneBad c2 || laneBad c3

/-- `any_pad` (R100). -/
def anyPad (c0 c1 c2 c3 : Byte) : Bool := lanePad c0 || lanePad c1 || lanePad c2 || lanePad c3

/-- The pad mask `m0 m1 m2 m3`, lane 0 written first (R100). -/
def padMask (c0 c1 c2 c3 : Byte) : BitVec 4 :=
  BitVec.ofBool (lanePad c0) ++ BitVec.ofBool (lanePad c1) ++ BitVec.ofBool (lanePad c2) ++ BitVec.ofBool (lanePad c3)

/-- `pad_ok`: the mask of a final group is one of the three allowed (R103). -/
def padOk (c0 c1 c2 c3 : Byte) : Bool :=
  let m := padMask c0 c1 c2 c3
  m == 0b0000#4 || m == 0b0001#4 || m == 0b0011#4

/-- `m_2 + m_3`, which fits two bits (R9 item 4, R103). -/
def padCount (c2 c3 : Byte) : BitVec 2 :=
  (BitVec.ofBool (lanePad c2)).setWidth 2 + (BitVec.ofBool (lanePad c3)).setWidth 2

/-- The cause field: bit 0 `CHAR`, bit 1 `LEN`, bit 2 `PAD` (R101). -/
def causeBits (char len pad : Bool) : BitVec 3 :=
  BitVec.ofBool pad ++ BitVec.ofBool len ++ BitVec.ofBool char

/-- The status outputs for a set of causes: `err` is the OR of the cause bits (R101), and a count of pads is reported only where there is no error (R103, R105). -/
def verdict (cause : BitVec 3) (pad : BitVec 2) : ValOut :=
  if cause.getLsbD 0 || cause.getLsbD 1 || cause.getLsbD 2 then raiseInvalid cause
  else { err := false, cause := cause, pad := pad }

/-- The verdict on a full group that is not final (R102): no `=` at all is allowed. -/
def verdictMid (c0 c1 c2 c3 : Byte) : ValOut :=
  verdict (causeBits (anyBad c0 c1 c2 c3) false (anyPad c0 c1 c2 c3)) 0

/-- The verdict on a full final group (R103). -/
def verdictLast (c0 c1 c2 c3 : Byte) : ValOut :=
  verdict (causeBits (anyBad c0 c1 c2 c3) false (!padOk c0 c1 c2 c3)) (padCount c2 c3)

/-- The verdict on a short group, whose lanes are not examined (R104). -/
def verdictShort : ValOut := verdict (causeBits false true false) 0

end Sys2Proof.Machine
end

