-- ==== Sys2Proof/Machine/Decoder.lean ====
section
/-! DEFINITION. Unit D, `base64_decoder_combinational` (`42_decoder.md`): one meaning per operation. D applies V's verdict to its own inputs and lets it gate the datapath (R121). -/

namespace Sys2Proof.Machine

/-- `DEC.MID` (R122): three bytes when the verdict is no error. -/
def execDecMid (c0 c1 c2 c3 : Byte) (s : State) : Result :=
  let v := decCore c0 c1 c2 c3
  .next (s.putD ⟨true, false, c0, c1, c2, c3⟩
    (gate (verdictMid c0 c1 c2 c3) 3 (byte0 v) (byte1 v) (byte2 v)))

/-- `DEC.LAST` (R123): `3 - pad` bytes when the verdict is no error; dropped lanes carry `0x00` (R126). -/
def execDecLast (c0 c1 c2 c3 : Byte) (s : State) : Result :=
  let r := verdictLast c0 c1 c2 c3
  let v := decCore c0 c1 c2 c3
  .next (s.putD ⟨true, true, c0, c1, c2, c3⟩
    (gate r (3 - r.pad) (byte0 v) (if r.pad ≤ 1 then byte1 v else 0x00) (if r.pad = 0 then byte2 v else 0x00)))

/-- `DEC.SHORT` (R124): the error, whatever `last` and the lanes hold. -/
def execDecShort (last : Bool) (c0 c1 c2 c3 : Byte) (s : State) : Result :=
  .next (s.putD ⟨false, last, c0, c1, c2, c3⟩ (raiseInvalidD verdictShort.cause))

end Sys2Proof.Machine
end

