-- ==== Sys2Proof/Machine/Encoder.lean ====
section
/-! DEFINITION. Unit E, `base64_encoder_combinational` (`40_encoder.md`): one meaning per operation, over the datapath of R80. -/

namespace Sys2Proof.Machine

/-- `ENC0` (R84): this group contributes nothing; the lanes carry `0x00`. -/
def execEnc0 (b0 b1 b2 : Byte) (s : State) : Result :=
  .next (s.putE ⟨0, b0, b1, b2⟩ { nsym := 0, s0 := 0x00, s1 := 0x00, s2 := 0x00, s3 := 0x00 })

/-- `ENC1` (R83): two symbols, then `==`. -/
def execEnc1 (b0 b1 b2 : Byte) (s : State) : Result :=
  let v := encPack 1 b0 b1 b2
  .next (s.putE ⟨1, b0, b1, b2⟩
    { nsym := 4, s0 := symToChar (field0 v), s1 := symToChar (field1 v), s2 := Config.padChar, s3 := Config.padChar })

/-- `ENC2` (R82): three symbols, then `=`. -/
def execEnc2 (b0 b1 b2 : Byte) (s : State) : Result :=
  let v := encPack 2 b0 b1 b2
  .next (s.putE ⟨2, b0, b1, b2⟩
    { nsym := 4, s0 := symToChar (field0 v), s1 := symToChar (field1 v), s2 := symToChar (field2 v), s3 := Config.padChar })

/-- `ENC3` (R81): four symbols. -/
def execEnc3 (b0 b1 b2 : Byte) (s : State) : Result :=
  let v := encPack 3 b0 b1 b2
  .next (s.putE ⟨3, b0, b1, b2⟩
    { nsym := 4, s0 := symToChar (field0 v), s1 := symToChar (field1 v), s2 := symToChar (field2 v), s3 := symToChar (field3 v) })

end Sys2Proof.Machine
end

