-- ==== Sys2Proof/Machine/Validator.lean ====
section
/-! DEFINITION. Unit V, `base64_padding_validator` (`41_validator.md`): one meaning per operation, over the verdicts of Flags.lean. -/

namespace Sys2Proof.Machine

/-- `VAL.MID` (R102). -/
def execValMid (c0 c1 c2 c3 : Byte) (s : State) : Result :=
  .next (s.putV ⟨true, false, c0, c1, c2, c3⟩ (verdictMid c0 c1 c2 c3))

/-- `VAL.LAST` (R103). -/
def execValLast (c0 c1 c2 c3 : Byte) (s : State) : Result :=
  .next (s.putV ⟨true, true, c0, c1, c2, c3⟩ (verdictLast c0 c1 c2 c3))

/-- `VAL.SHORT` (R104): `last` and the lanes are ignored. -/
def execValShort (last : Bool) (c0 c1 c2 c3 : Byte) (s : State) : Result :=
  .next (s.putV ⟨false, last, c0, c1, c2, c3⟩ verdictShort)

end Sys2Proof.Machine
end

