-- ==== Sys2Proof/Machine/Dispatch.lean ====
section
/-! DEFINITION. `exec`: one arm per operation of R60. -/

namespace Sys2Proof.Machine

def exec (i : Instr) (s : State) : Host.Outcome State Fault Refusal :=
  match i with
  | .enc0 b0 b1 b2 => Sys2Proof.Machine.execEnc0 b0 b1 b2 s
  | .enc1 b0 b1 b2 => Sys2Proof.Machine.execEnc1 b0 b1 b2 s
  | .enc2 b0 b1 b2 => Sys2Proof.Machine.execEnc2 b0 b1 b2 s
  | .enc3 b0 b1 b2 => Sys2Proof.Machine.execEnc3 b0 b1 b2 s
  | .valMid c0 c1 c2 c3 => Sys2Proof.Machine.execValMid c0 c1 c2 c3 s
  | .valLast c0 c1 c2 c3 => Sys2Proof.Machine.execValLast c0 c1 c2 c3 s
  | .valShort last c0 c1 c2 c3 => Sys2Proof.Machine.execValShort last c0 c1 c2 c3 s
  | .decMid c0 c1 c2 c3 => Sys2Proof.Machine.execDecMid c0 c1 c2 c3 s
  | .decLast c0 c1 c2 c3 => Sys2Proof.Machine.execDecLast c0 c1 c2 c3 s
  | .decShort last c0 c1 c2 c3 => Sys2Proof.Machine.execDecShort last c0 c1 c2 c3 s

end Sys2Proof.Machine
end

