-- ==== Sys2Proof/Machine/Units.lean ====
section
/-! DEFINITION. Each unit as what R6 says it is, "a total pure function from its input ports to its output ports", written output port by output port from the port tables (R14, R15, R16) and their summaries (R86, R105, R121, R125). The meanings of the ten operations are written apart from it, operation by operation; that they agree is a statement. -/

namespace Sys2Proof.Machine

/-- Unit E over all four values of `enc_len_i` (R14, R80). -/
def encUnit (i : EncIn) : EncOut :=
  let v := encPack i.len i.b0 i.b1 i.b2
  { nsym := if i.len = 0 then 0 else 4
    s0 := if i.len = 0 then 0x00 else symToChar (field0 v)
    s1 := if i.len = 0 then 0x00 else symToChar (field1 v)
    s2 := if i.len = 0 then 0x00 else if i.len = 1 then Config.padChar else symToChar (field2 v)
    s3 := if i.len = 0 then 0x00 else if i.len = 3 then symToChar (field3 v) else Config.padChar }

/-- Cause `CHAR` over both flags (R171): a full group has a `BAD` lane. -/
def charCause (i : GroupIn) : Bool := i.full && anyBad i.c0 i.c1 i.c2 i.c3

/-- Cause `LEN` (R171): the group is short. -/
def lenCause (i : GroupIn) : Bool := !i.full

/-- Cause `PAD` over both flags (R171): a non-final full group has a pad, or a final full group has `m_0 | m_1 | (m_2 & ~m_3)` (R103). -/
def padCause (i : GroupIn) : Bool :=
  i.full &&
    (if i.last then lanePad i.c0 || lanePad i.c1 || (lanePad i.c2 && !lanePad i.c3)
     else anyPad i.c0 i.c1 i.c2 i.c3)

/-- Unit V over all values of its flags (R15, R101, R105). -/
def valUnit (i : GroupIn) : ValOut :=
  let err := charCause i || lenCause i || padCause i
  { err := err
    cause := causeBits (charCause i) (lenCause i) (padCause i)
    pad := if !err && i.last then (if lanePad i.c2 then 2 else if lanePad i.c3 then 1 else 0) else 0 }

/-- Unit D over all values of its flags (R16, R121 to R126): V's verdict on the same inputs, and the byte lanes below `dec_len_o`. -/
def decUnit (i : GroupIn) : DecOut :=
  let r := valUnit i
  let v := decCore i.c0 i.c1 i.c2 i.c3
  let len : BitVec 2 := if r.err then 0 else 3 - r.pad
  { err := r.err
    cause := r.cause
    pad := r.pad
    len := len
    b0 := if 1 ≤ len then byte0 v else 0x00
    b1 := if 2 ≤ len then byte1 v else 0x00
    b2 := if 3 ≤ len then byte2 v else 0x00 }

end Sys2Proof.Machine
end

