-- ==== Sys2Proof/Machine/Present.lean ====
section
/-! DEFINITION. The environment's side: what it drives on input ports, and which output ports it may wire to input ports. An output port is combinational: "every output is a function of the inputs present at that moment" (R10), and the status outputs "describe the inputs present now, they are not sticky" (R17). So whatever moves a unit's inputs moves its outputs with them. -/

namespace Sys2Proof.Machine

/-- Unit E's input ports driven, and its output ports following (R20). -/
def State.driveE (i : EncIn) (s : State) : State := s.putE i (encUnit i)

/-- Unit V's input ports driven, and its output ports following (R20). -/
def State.driveV (i : GroupIn) (s : State) : State := s.putV i (valUnit i)

/-- Unit D's input ports driven, and its output ports following (R20). -/
def State.driveD (i : GroupIn) (s : State) : State := s.putD i (decUnit i)

/-- The environment drives one unit's input ports with a bundle (R55, R57) and selects that unit. The unit's output ports carry from then on what the rules give for these inputs (R20, R192); the other units' ports are not touched (R21). -/
def State.present (b : Bundle) (s : State) : State :=
  match b with
  | .e x => s.driveE (EncIn.ofEin x)
  | .v x => s.driveV (GroupIn.ofGin x)
  | .d x => s.driveD (GroupIn.ofGin x)

/-! ### Unit E wired to unit V or to unit D (R21, R199; program P4)

The environment keeps `full` and `last`, and the four character lanes of V or D are E's character outputs. -/

/-- Format G input ports whose character lanes are wired to E's character outputs. -/
def EncOut.wired (full last : Bool) (o : EncOut) : GroupIn := ⟨full, last, o.s0, o.s1, o.s2, o.s3⟩

/-- The bundle on unit V's inputs when its character lanes are wired to E's outputs. -/
def State.wireToV (full last : Bool) (s : State) : Bundle := .v (s.encOut.wired full last).gin

/-- The bundle on unit D's inputs when its character lanes are wired to E's outputs. -/
def State.wireToD (full last : Bool) (s : State) : Bundle := .d (s.encOut.wired full last).gin

/-- E's inputs driven while V is wired to E: V's inputs and outputs follow E's outputs. -/
def State.presentThroughV (x : BitVec 26) (full last : Bool) (s : State) : State :=
  let t := s.present (.e x)
  t.present (t.wireToV full last)

/-- E's inputs driven while D is wired to E: D's inputs and outputs follow E's outputs. -/
def State.presentThroughD (x : BitVec 26) (full last : Bool) (s : State) : State :=
  let t := s.present (.e x)
  t.present (t.wireToD full last)

/-- Program P4's wiring: unit D wired to unit E, with `dec_full_i = 1`. -/
def loopBack (last : Bool) (s : State) : Bundle := s.wireToD true last

end Sys2Proof.Machine
end

