-- ==== Sys2Proof/Machine/Step.lean ====
section
/-! DEFINITION. One step: one evaluation of the unit at hand on the levels of its input ports (R6). -/

namespace Sys2Proof.Machine

/-- The step: the operation that the input ports of the selected unit encode is performed. -/
def step (s : State) : Host.Outcome State Fault Refusal := exec (decode s.fetch) s

/-- `s` with the operation of an opcode-table word presented, so that the next step performs it. A word that is no bundle changes nothing (log entries 3 and 4). -/
def State.withFetchWord (s : State) (nbits w : Nat) : State :=
  match tableBundle nbits w with
  | some b => s.present b
  | none => s

end Sys2Proof.Machine
end

