-- ==== Sys2Proof/Machine/Stream.lean ====
section
/-! DEFINITION. The stream contract (`43_stream_contract.md`): how the environment cuts a sequence into groups, which evaluations it makes, and how it joins the outputs. These rules bind the environment (R2 item 6); here they are functions over the machine's step, so that `ENCODE` and `DECODE` are runs of the hardware. -/

namespace Sys2Proof.Machine

/-- The one error of the codec, at stream level (R170, R176): it carries no position and no cause. -/
inductive InvalidBase64Format where
  | raised
deriving DecidableEq, Repr

/-- One evaluation as the environment makes it: present the operation's bundle, then step (R6, R60). -/
def evaluate (i : Instr) (s : State) : Result := step (s.present (encode i))

/-- A sequence of evaluations on one copy of the units, with the state after each, in order. -/
def trace : List Instr → State → Host.Outcome (List State) Fault Refusal
  | [], _ => .next []
  | i :: rest, s =>
    match evaluate i s with
    | .next t =>
      match trace rest t with
      | .next ts => .next (t :: ts)
      | .fault f => .fault f
      | .refused r => .refused r
    | .fault f => .fault f
    | .refused r => .refused r

/-- What the environment makes of the states after its evaluations, where they all happened. -/
def joinTrace {α : Type} (join : List State → α) : Host.Outcome (List State) Fault Refusal → Host.Outcome α Fault Refusal
  | .next ts => .next (join ts)
  | .fault f => .fault f
  | .refused r => .refused r

/-- Characters are taken only as many as `enc_nsym_o` says (R146 item 5, R198). -/
def takeChars (s : State) : List Byte :=
  [s.encOut.s0, s.encOut.s1, s.encOut.s2, s.encOut.s3].take s.encOut.nsym.toNat

/-- Bytes are taken only as many as `dec_len_o` says (R145, R146 item 5, R198). -/
def takeBytes (s : State) : List Byte :=
  [s.decOut.b0, s.decOut.b1, s.decOut.b2].take s.decOut.len.toNat

/-! ### ENCODE (R140 to R142) -/

/-- The evaluations of `ENCODE x`: `ENC3` on every group of three bytes, and `ENC1` or `ENC2` on a final group of one or two. `y1`, `y2` are what the environment leaves on the lanes that hold no byte: "any value" (R140). -/
def encodeOps (y1 y2 : Byte) : List Byte → List Instr
  | [] => []
  | [a] => [.enc1 a y1 y2]
  | [a, b] => [.enc2 a b y2]
  | a :: b :: c :: rest => .enc3 a b c :: encodeOps y1 y2 rest

/-- `ENCODE x` on a copy of the units in state `s`: the concatenation of all group outputs, in order (R141). -/
def encodeStream (y1 y2 : Byte) (x : List Byte) (s : State) : Host.Outcome (List Byte) Fault Refusal :=
  joinTrace (fun ts => ts.flatMap takeChars) (trace (encodeOps y1 y2 x) s)

/-! ### DECODE (R143 to R145) and the validation-only pass (R146 item 7) -/

/-- The groups of four characters of a string and how each is presented (R143): `mid` on every group but the last, `fin` on a full last group, `short` (with `last = 1`) on a last group of one to three characters. `z1`, `z2`, `z3` are what stands on the lanes that hold no character: "any value". -/
def groupOps (mid fin short : Byte → Byte → Byte → Byte → Instr) (z1 z2 z3 : Byte) : List Byte → List Instr
  | [] => []
  | [a] => [short a z1 z2 z3]
  | [a, b] => [short a b z2 z3]
  | [a, b, c] => [short a b c z3]
  | [a, b, c, d] => [fin a b c d]
  | a :: b :: c :: d :: e :: rest => mid a b c d :: groupOps mid fin short z1 z2 z3 (e :: rest)

/-- The evaluations of `DECODE str` (R143). -/
def decodeOps (z1 z2 z3 : Byte) : List Byte → List Instr :=
  groupOps .decMid .decLast (.decShort true) z1 z2 z3

/-- The evaluations of a validation-only pass over `str` (R146 item 7). -/
def validateOps (z1 z2 z3 : Byte) : List Byte → List Instr :=
  groupOps .valMid .valLast (.valShort true) z1 z2 z3

/-- The result of a DECODE from the states after its evaluations: no byte at all if any group errs (R144), else the groups' bytes in order (R145). -/
def joinBytes (ts : List State) : Except InvalidBase64Format (List Byte) :=
  if ts.any (fun t => t.decOut.err) then .error .raised else .ok (ts.flatMap takeBytes)

/-- `DECODE str` on a copy of the units in state `s`. -/
def decodeStream (z1 z2 z3 : Byte) (str : List Byte) (s : State) :
    Host.Outcome (Except InvalidBase64Format (List Byte)) Fault Refusal :=
  joinTrace joinBytes (trace (decodeOps z1 z2 z3 str) s)

/-- The validation-only pass: whether no group has `val_err_o = 1` (R106, R146 item 7). -/
def validateStream (z1 z2 z3 : Byte) (str : List Byte) (s : State) : Host.Outcome Bool Fault Refusal :=
  joinTrace (fun ts => !ts.any (fun t => t.valOut.err)) (trace (validateOps z1 z2 z3 str) s)

end Sys2Proof.Machine
end

