-- ==== Sys2Proof/Machine/Source.lean ====
section
/-! DEFINITION. The source's codec on whole sequences, as the spec quotes it (R34, R36, R64, R80, R101, R103, R120, R123, R141, R145, R149): what the stream contract is said to equal. It is written on natural numbers and the alphabet's positions, with no part of the units, and no step uses it. -/

namespace Sys2Proof.Machine

/-! ### encode -/

/-- How many zero bytes pad the input, and how many characters of the result `=` replaces: `(3 - r) mod 3` (R36, R64). -/
def padBytes (x : List Byte) : Nat := (3 - x.length % 3) % 3

/-- The four characters of a group: "Each group packs into a 24-bit value … extract four 6-bit fields … and map each through Base64Alphabet" (R80). -/
def sourceChars (a b c : Byte) : List Byte :=
  let v := a.toNat * 65536 + b.toNat * 256 + c.toNat
  [alpha.getD (v / 262144 % 64) 0, alpha.getD (v / 4096 % 64) 0, alpha.getD (v / 64 % 64) 0, alpha.getD (v % 64) 0]

/-- "Concatenation of all group outputs, in order", over groups of three bytes (R34). -/
def sourceEncodeGroups : List Byte → List Byte
  | a :: b :: c :: rest => sourceChars a b c ++ sourceEncodeGroups rest
  | _ => []

/-- The source's `encode`: pad with zero bytes, map the groups, replace the last characters by `=` (R36, R64, R80). -/
def sourceEncode (x : List Byte) : List Byte :=
  let cs := sourceEncodeGroups (x ++ List.replicate (padBytes x) 0)
  cs.take (cs.length - padBytes x) ++ List.replicate (padBytes x) Config.padChar

/-! ### decode -/

/-- The trailing pad count `p` of a string (R64, R123). -/
def trailingPads (str : List Byte) : Nat := (str.reverse.takeWhile (fun c => c == Config.padChar)).length

/-- The source's validation (introduction of `41_validator.md`, R106, R149): the length is a multiple of 4, every character is in the alphabet or `=`, and all `=` are trailing, at most two of them. -/
def sourceValid (str : List Byte) : Bool :=
  decide (str.length % 4 = 0) &&
  str.all (fun c => alpha.contains c || c == Config.padChar) &&
  decide (str.count Config.padChar = trailingPads str) &&
  decide (trailingPads str ≤ Config.maxPad)

/-- The index of a character, `=` counting as the symbol of index 0 (R54, R120). -/
def sourceIdx (c : Byte) : Nat := if c = Config.padChar then 0 else alpha.idxOf c

/-- The three bytes of a group: "pack into a 24-bit value … extract 3 bytes" (R62, R120). -/
def sourceBytes (a b c d : Byte) : List Byte :=
  let v := sourceIdx a * 262144 + sourceIdx b * 4096 + sourceIdx c * 64 + sourceIdx d
  [BitVec.ofNat 8 (v / 65536), BitVec.ofNat 8 (v / 256), BitVec.ofNat 8 v]

/-- The bytes of all groups of four characters, in order (R34). -/
def sourceDecodeGroups : List Byte → List Byte
  | a :: b :: c :: d :: rest => sourceBytes a b c d ++ sourceDecodeGroups rest
  | _ => []

/-- The source's `decode`: validate first, then "drop the last `p` bytes from the assembled output" (R121, R123, R145). -/
def sourceDecode (str : List Byte) : Except InvalidBase64Format (List Byte) :=
  if sourceValid str then
    let bs := sourceDecodeGroups str
    .ok (bs.take (bs.length - trailingPads str))
  else .error .raised

/-! ### What decode discards (R126, R150) -/

/-- Whether the bits of the last real symbol that fall in no kept byte are all zero: 4 bits when the final group ends in `==`, 2 bits when it ends in one `=` (R126 item 2). -/
def discardedBitsZero : List Byte → Bool
  | [_, b, c, d] =>
    if d = Config.padChar then
      if c = Config.padChar then decide ((idx6 b).extractLsb' 0 4 = 0) else decide ((idx6 c).extractLsb' 0 2 = 0)
    else true
  | _ :: _ :: _ :: _ :: rest => discardedBitsZero rest
  | _ => true

end Sys2Proof.Machine
end

