-- ==== Sys2Proof/Machine/Surround.lean ====
section
/-! DEFINITION. The software around the codec (R155 to R159), which no unit implements (R3): kept as environment functions over the block's `ENCODE` and `DECODE`, so that what the spec records of it can be stated. -/

namespace Sys2Proof.Machine

/-- ByteInverter: each byte to `(~b) & 0xFF` (R155). -/
def invert (x : List Byte) : List Byte := x.map (fun b => ~~~b)

/-- The text-encoding collaborator (R158, U6): which encoding it is, is not fixed, so it is a parameter; `bytesToText` answers nothing on bytes that are no text, and the one law is the round trip. -/
structure TextConverter (Text : Type) where
  textToBytes : Text → List Byte
  bytesToText : List Byte → Option Text
  roundTrip : ∀ t, bytesToText (textToBytes t) = some t

/-- `obfuscate(t) = ENCODE(invert(text_to_bytes(t)))` (R156). -/
def obfuscate {Text : Type} (conv : TextConverter Text) (y1 y2 : Byte) (t : Text) (s : State) :
    Host.Outcome (List Byte) Fault Refusal :=
  encodeStream y1 y2 (invert (conv.textToBytes t)) s

/-- The text that comes of a decoded string: the error is passed on unchanged (R157, R178), and `none` is the converter's, on bytes that are no text (R185, U6). -/
def textOfDecoded {Text : Type} (conv : TextConverter Text) :
    Except InvalidBase64Format (List Byte) → Except InvalidBase64Format (Option Text)
  | .ok x => .ok (conv.bytesToText (invert x))
  | .error e => .error e

/-- `deobfuscate(s) = bytes_to_text(invert(DECODE s))` (R157). -/
def deobfuscate {Text : Type} (conv : TextConverter Text) (z1 z2 z3 : Byte) (str : List Byte) (s : State) :
    Host.Outcome (Except InvalidBase64Format (Option Text)) Fault Refusal :=
  match decodeStream z1 z2 z3 str s with
  | .next r => .next (textOfDecoded conv r)
  | .fault f => .fault f
  | .refused r => .refused r

end Sys2Proof.Machine
end

