-- ==== Sys2Proof/Safety.lean ====
section
/-! DEFINITION. What counts as a sound state and a safe run of the block, in the terms the statements use. -/

namespace Sys2Proof.Machine

/-- A unit's output ports carry what the rules give for the levels now on its input ports (R20, R40). -/
abbrev State.UnitSettled (u : UnitId) (s : State) : Prop :=
  match u with
  | .encoder => s.encOut = encUnit s.encIn
  | .validator => s.valOut = valUnit s.valIn
  | .decoder => s.decOut = decUnit s.decIn

/-- "From that moment every output port holds the value the rules give for the inputs then present" (R20). -/
abbrev State.Settled (s : State) : Prop :=
  s.UnitSettled .encoder ∧ s.UnitSettled .validator ∧ s.UnitSettled .decoder

/-- A character code of the alphabet: it has class `SYM` (R53). -/
abbrev IsSymbol (c : Byte) : Prop := ∃ i : Sym, classOf c = .sym i

/-- Unit E's ports hold legal values together (the last column of R14's table). -/
structure EncIn.LegalOut (i : EncIn) (o : EncOut) : Prop where
  nsym : o.nsym = if i.len = 0 then 0 else 4
  filler : i.len = 0 → o.s0 = 0x00 ∧ o.s1 = 0x00 ∧ o.s2 = 0x00 ∧ o.s3 = 0x00
  symbols : i.len ≠ 0 → IsSymbol o.s0 ∧ IsSymbol o.s1
  lane2 : i.len ≠ 0 → if i.len = 1 then o.s2 = Config.padChar else IsSymbol o.s2
  lane3 : i.len ≠ 0 → if i.len = 3 then IsSymbol o.s3 else o.s3 = Config.padChar

/-- The status outputs of unit V, or the same outputs of unit D, hold legal values for the inputs present (R15, R16, R101). -/
structure GroupIn.LegalStatus (i : GroupIn) (err : Bool) (cause : BitVec 3) (pad : BitVec 2) : Prop where
  err_iff_cause : err = true ↔ cause ≠ 0
  causes : if i.full then cause = 0b000#3 ∨ cause = 0b001#3 ∨ cause = 0b100#3 ∨ cause = 0b101#3 else cause = 0b010#3
  pad_le : pad ≤ 2
  pad_zero : err = true ∨ i.last = false ∨ i.full = false → pad = 0

/-- The data outputs of unit D hold legal values together with its status (R16). -/
structure DecOut.LegalData (o : DecOut) : Prop where
  len_err : o.err = true → o.len = 0
  len_ok : o.err = false → o.len = 3 - o.pad ∧ 1 ≤ o.len
  b0_filler : o.len < 1 → o.b0 = 0x00
  b1_filler : o.len < 2 → o.b1 = 0x00
  b2_filler : o.len < 3 → o.b2 = 0x00

/-- Every port holds a value its port table calls legal (R14, R15, R16). -/
structure State.PortsLegal (s : State) : Prop where
  enc : s.encIn.LegalOut s.encOut
  val : s.valIn.LegalStatus s.valOut.err s.valOut.cause s.valOut.pad
  dec : s.decIn.LegalStatus s.decOut.err s.decOut.cause s.decOut.pad
  data : s.decOut.LegalData

/-- What stands on the ports of the other two units is the same in two states (R21). -/
def State.SameElsewhere (u : UnitId) (s t : State) : Prop :=
  (u = .encoder ∨ (t.encIn = s.encIn ∧ t.encOut = s.encOut)) ∧
  (u = .validator ∨ (t.valIn = s.valIn ∧ t.valOut = s.valOut)) ∧
  (u = .decoder ∨ (t.decIn = s.decIn ∧ t.decOut = s.decOut))

/-- The ports of one unit are the same in two states. -/
def State.SameAt (u : UnitId) (s t : State) : Prop :=
  match u with
  | .encoder => t.encIn = s.encIn ∧ t.encOut = s.encOut
  | .validator => t.valIn = s.valIn ∧ t.valOut = s.valOut
  | .decoder => t.decIn = s.decIn ∧ t.decOut = s.decOut

/-- The environment may sample a unit's outputs once its inputs have been steady for `stable` units of time (R194). The functional model is zero-delay, so no step depends on it. -/
def MaySample (u : UnitId) (stable : Nat) : Prop := Config.tPD u ≤ stable

/-- How long E's inputs must be steady before the outputs of V or of D are sampled when E's characters are wired to that unit: "the composed function after `T_PD(E) + T_PD(D)`" (R199). -/
def wiredSettle (u : UnitId) : Nat := Config.tPD .encoder + Config.tPD u

/-- The environment may sample the outputs of the unit wired behind E (R194, R199). -/
def MaySampleWired (u : UnitId) (stable : Nat) : Prop := wiredSettle u ≤ stable

/-- The wiring of program P4. -/
def loopBackSettle : Nat := wiredSettle .decoder

end Sys2Proof.Machine
end

