-- ==== Sys2Proof/Certificates/Slice0/Obligations.lean ====
section
/-! DEFINITION. The statements for the provers, each from the spec's numbered rules. A statement about an operation says the whole next state, so it is also the operation's completion and its frame: every port not named in it is as before. -/

open Sys2Proof Sys2Proof.Machine

/-! ### Unit E -/

/-- R81: `ENC3` drives the four symbols of its three bytes, bit by bit as R61 spells the fields; no lane is ever `=`; different bytes give different outputs; the rule's corner cases and example. -/
def Obligations.Enc3DrivesFourSymbols : Prop :=
  (∀ (b0 b1 b2 : Byte) (s : State),
    exec (.enc3 b0 b1 b2) s = .next { s with
      sel := .encoder
      encIn := ⟨3, b0, b1, b2⟩
      encOut := ⟨4, symToChar (b0.extractLsb' 2 6), symToChar (b0.extractLsb' 0 2 ++ b1.extractLsb' 4 4),
        symToChar (b1.extractLsb' 0 4 ++ b2.extractLsb' 6 2), symToChar (b2.extractLsb' 0 6)⟩ }) ∧
  (∀ (b0 b1 b2 : Byte) (s : State), ∃ t, exec (.enc3 b0 b1 b2) s = .next t ∧
    t.encOut.s0 ≠ 0x3D#8 ∧ t.encOut.s1 ≠ 0x3D#8 ∧ t.encOut.s2 ≠ 0x3D#8 ∧ t.encOut.s3 ≠ 0x3D#8) ∧
  (∀ (b0 b1 b2 b0' b1' b2' : Byte) (s s' t t' : State),
    exec (.enc3 b0 b1 b2) s = .next t → exec (.enc3 b0' b1' b2') s' = .next t' →
    t.encOut = t'.encOut → b0 = b0' ∧ b1 = b1' ∧ b2 = b2') ∧
  (∀ s : State, ∃ t, exec (.enc3 0x00 0x00 0x00) s = .next t ∧ t.encOut = ⟨4, 0x41, 0x41, 0x41, 0x41⟩) ∧
  (∀ s : State, ∃ t, exec (.enc3 0xFF 0xFF 0xFF) s = .next t ∧ t.encOut = ⟨4, 0x2F, 0x2F, 0x2F, 0x2F⟩) ∧
  (∀ s : State, ∃ t, exec (.enc3 0x4D 0x61 0x6E) s = .next t ∧ t.encOut = ⟨4, 0x54, 0x57, 0x46, 0x75⟩)

/-- R82: `ENC2` drives three symbols and `=`; lane 2 is masked, so the third symbol's index is `{b1[3:0], 00}` and `b2` changes no output; the rule's corner cases and example. -/
def Obligations.Enc2DrivesThreeSymbolsAndPad : Prop :=
  (∀ (b0 b1 b2 : Byte) (s : State),
    exec (.enc2 b0 b1 b2) s = .next { s with
      sel := .encoder
      encIn := ⟨2, b0, b1, b2⟩
      encOut := ⟨4, symToChar (b0.extractLsb' 2 6), symToChar (b0.extractLsb' 0 2 ++ b1.extractLsb' 4 4),
        symToChar (b1.extractLsb' 0 4 ++ 0b00#2), 0x3D⟩ }) ∧
  (∀ s : State, ∃ t, exec (.enc2 0xFF 0xFF 0xFF) s = .next t ∧ t.encOut = ⟨4, 0x2F, 0x2F, 0x38, 0x3D⟩) ∧
  (∀ s : State, ∃ t, exec (.enc2 0x00 0x00 0x5A) s = .next t ∧ t.encOut = ⟨4, 0x41, 0x41, 0x41, 0x3D⟩) ∧
  (∀ (b2 : Byte) (s : State), ∃ t, exec (.enc2 0x4D 0x61 b2) s = .next t ∧ t.encOut = ⟨4, 0x54, 0x57, 0x45, 0x3D⟩)

/-- R83: `ENC1` drives two symbols and `==`; lanes 1 and 2 are masked, so the second symbol's index is `{b0[1:0], 0000}` and its character one of `A Q g w`; the rule's corner cases and example. The clause that `enc_s1_o` is one of `A Q g w` is the spec's own inference, which R83 marks `[derived: from rule R80 and 30_encoding.md rule R61]`. -/
def Obligations.Enc1DrivesTwoSymbolsAndPads : Prop :=
  (∀ (b0 b1 b2 : Byte) (s : State),
    exec (.enc1 b0 b1 b2) s = .next { s with
      sel := .encoder
      encIn := ⟨1, b0, b1, b2⟩
      encOut := ⟨4, symToChar (b0.extractLsb' 2 6), symToChar (b0.extractLsb' 0 2 ++ 0b0000#4), 0x3D, 0x3D⟩ }) ∧
  (∀ (b0 b1 b2 : Byte) (s : State), ∃ t, exec (.enc1 b0 b1 b2) s = .next t ∧
    (t.encOut.s1 = 0x41#8 ∨ t.encOut.s1 = 0x51#8 ∨ t.encOut.s1 = 0x67#8 ∨ t.encOut.s1 = 0x77#8)) ∧
  (∀ (b1 b2 : Byte) (s : State), ∃ t, exec (.enc1 0xFF b1 b2) s = .next t ∧ t.encOut = ⟨4, 0x2F, 0x77, 0x3D, 0x3D⟩) ∧
  (∀ (b1 b2 : Byte) (s : State), ∃ t, exec (.enc1 0x00 b1 b2) s = .next t ∧ t.encOut = ⟨4, 0x41, 0x41, 0x3D, 0x3D⟩) ∧
  (∀ (b1 b2 : Byte) (s : State), ∃ t, exec (.enc1 0x4D b1 b2) s = .next t ∧ t.encOut = ⟨4, 0x54, 0x51, 0x3D, 0x3D⟩)

/-- R84: `ENC0` contributes nothing, whatever the lanes hold: `enc_nsym_o = 0` and the lanes at `0x00`, a `BAD` code. -/
def Obligations.Enc0DrivesNothing : Prop :=
  (∀ (b0 b1 b2 : Byte) (s : State),
    exec (.enc0 b0 b1 b2) s = .next { s with
      sel := .encoder
      encIn := ⟨0, b0, b1, b2⟩
      encOut := ⟨0, 0x00, 0x00, 0x00, 0x00⟩ }) ∧
  classOf 0x00 = .bad

/-- R86: the classes of unit E's output lanes, that its characters are accepted by V and by D as a full final group with `p = 3 - enc_len_i`, and for `enc_len_i = 3` also as a non-final group; `enc_nsym_o` is 4 exactly when `enc_len_i` is not 0. The spec marks the rule as its own derivation. -/
def Obligations.EncoderOutputClasses : Prop :=
  ∀ (b0 b1 b2 : Byte) (s : State),
    (∃ t, exec (.enc3 b0 b1 b2) s = .next t ∧ t.encOut.nsym = 4 ∧
      IsSymbol t.encOut.s0 ∧ IsSymbol t.encOut.s1 ∧ IsSymbol t.encOut.s2 ∧ IsSymbol t.encOut.s3 ∧
      (∃ u, exec (.valLast t.encOut.s0 t.encOut.s1 t.encOut.s2 t.encOut.s3) t = .next u ∧ u.valOut = ⟨false, 0, 0⟩) ∧
      (∃ u, exec (.decLast t.encOut.s0 t.encOut.s1 t.encOut.s2 t.encOut.s3) t = .next u ∧ u.decOut.err = false ∧ u.decOut.pad = 0) ∧
      (∃ u, exec (.valMid t.encOut.s0 t.encOut.s1 t.encOut.s2 t.encOut.s3) t = .next u ∧ u.valOut = ⟨false, 0, 0⟩) ∧
      (∃ u, exec (.decMid t.encOut.s0 t.encOut.s1 t.encOut.s2 t.encOut.s3) t = .next u ∧ u.decOut.err = false)) ∧
    (∃ t, exec (.enc2 b0 b1 b2) s = .next t ∧ t.encOut.nsym = 4 ∧
      IsSymbol t.encOut.s0 ∧ IsSymbol t.encOut.s1 ∧ IsSymbol t.encOut.s2 ∧ classOf t.encOut.s3 = .pad ∧
      (∃ u, exec (.valLast t.encOut.s0 t.encOut.s1 t.encOut.s2 t.encOut.s3) t = .next u ∧ u.valOut = ⟨false, 0, 1⟩) ∧
      (∃ u, exec (.decLast t.encOut.s0 t.encOut.s1 t.encOut.s2 t.encOut.s3) t = .next u ∧ u.decOut.err = false ∧ u.decOut.pad = 1)) ∧
    (∃ t, exec (.enc1 b0 b1 b2) s = .next t ∧ t.encOut.nsym = 4 ∧
      IsSymbol t.encOut.s0 ∧ IsSymbol t.encOut.s1 ∧ classOf t.encOut.s2 = .pad ∧ classOf t.encOut.s3 = .pad ∧
      (∃ u, exec (.valLast t.encOut.s0 t.encOut.s1 t.encOut.s2 t.encOut.s3) t = .next u ∧ u.valOut = ⟨false, 0, 2⟩) ∧
      (∃ u, exec (.decLast t.encOut.s0 t.encOut.s1 t.encOut.s2 t.encOut.s3) t = .next u ∧ u.decOut.err = false ∧ u.decOut.pad = 2)) ∧
    (∃ t, exec (.enc0 b0 b1 b2) s = .next t ∧ t.encOut.nsym = 0 ∧
      classOf t.encOut.s0 = .bad ∧ classOf t.encOut.s1 = .bad ∧ classOf t.encOut.s2 = .bad ∧ classOf t.encOut.s3 = .bad)

/-! ### Unit V -/

/-- R102: `VAL.MID` reports `CHAR` when a lane is `BAD` and `PAD` when a lane is `=`, never a pad count; it is valid exactly when all four lanes are `SYM`; the rule's corner cases and examples. -/
def Obligations.ValMidVerdict : Prop :=
  (∀ (c0 c1 c2 c3 : Byte) (s : State),
    let bad := decide (classOf c0 = .bad ∨ classOf c1 = .bad ∨ classOf c2 = .bad ∨ classOf c3 = .bad)
    let pad := decide (c0 = 0x3D#8 ∨ c1 = 0x3D#8 ∨ c2 = 0x3D#8 ∨ c3 = 0x3D#8)
    exec (.valMid c0 c1 c2 c3) s = .next { s with
      sel := .validator
      valIn := ⟨true, false, c0, c1, c2, c3⟩
      valOut := ⟨bad || pad, BitVec.ofBool pad ++ 0#1 ++ BitVec.ofBool bad, 0⟩ }) ∧
  (∀ (c0 c1 c2 c3 : Byte) (s : State), ∃ t, exec (.valMid c0 c1 c2 c3) s = .next t ∧
    (t.valOut.err = false ↔ IsSymbol c0 ∧ IsSymbol c1 ∧ IsSymbol c2 ∧ IsSymbol c3)) ∧
  (∀ s : State, ∃ t, exec (.valMid 0x54 0x51 0x3D 0x3D) s = .next t ∧ t.valOut = ⟨true, 0b100, 0⟩) ∧
  (∀ s : State, ∃ t, exec (.valMid 0x41 0x3D 0x24 0x41) s = .next t ∧ t.valOut = ⟨true, 0b101, 0⟩) ∧
  (∀ s : State, ∃ t, exec (.valMid 0x54 0x57 0x46 0x75) s = .next t ∧ t.valOut = ⟨false, 0b000, 0⟩) ∧
  (∀ s : State, ∃ t, exec (.valMid 0x54 0x57 0x45 0x3D) s = .next t ∧ t.valOut = ⟨true, 0b100, 0⟩)

/-- R103: `VAL.LAST` reports `CHAR` when a lane is `BAD` and `PAD` when `m_0 | m_1 | (m_2 & ~m_3)`, and the pad count `m_2 + m_3` where there is no error; it does not look at the bits the padding discards; the rule's examples. -/
def Obligations.ValLastVerdict : Prop :=
  (∀ (c0 c1 c2 c3 : Byte) (s : State),
    let bad := decide (classOf c0 = .bad ∨ classOf c1 = .bad ∨ classOf c2 = .bad ∨ classOf c3 = .bad)
    let pad := decide (c0 = 0x3D#8 ∨ c1 = 0x3D#8 ∨ (c2 = 0x3D#8 ∧ c3 ≠ 0x3D#8))
    exec (.valLast c0 c1 c2 c3) s = .next { s with
      sel := .validator
      valIn := ⟨true, true, c0, c1, c2, c3⟩
      valOut := ⟨bad || pad, BitVec.ofBool pad ++ 0#1 ++ BitVec.ofBool bad,
        if bad || pad then 0 else (if c2 = 0x3D#8 then 1 else 0) + (if c3 = 0x3D#8 then 1 else 0)⟩ }) ∧
  (∀ s : State, ∃ t, exec (.valLast 0x54 0x51 0x3D 0x3D) s = .next t ∧ t.valOut = ⟨false, 0b000, 2⟩) ∧
  (∀ s : State, ∃ t, exec (.valLast 0x54 0x52 0x3D 0x3D) s = .next t ∧ t.valOut = ⟨false, 0b000, 2⟩) ∧
  (∀ s : State, ∃ t, exec (.valLast 0x54 0x57 0x45 0x3D) s = .next t ∧ t.valOut = ⟨false, 0b000, 1⟩) ∧
  (∀ s : State, ∃ t, exec (.valLast 0x54 0x57 0x46 0x75) s = .next t ∧ t.valOut = ⟨false, 0b000, 0⟩) ∧
  (∀ s : State, ∃ t, exec (.valLast 0x41 0x3D 0x41 0x41) s = .next t ∧ t.valOut = ⟨true, 0b100, 0⟩) ∧
  (∀ s : State, ∃ t, exec (.valLast 0x54 0x24 0x3D 0x3D) s = .next t ∧ t.valOut = ⟨true, 0b001, 0⟩)

/-- R104: `VAL.SHORT` drives constant outputs, cause `LEN`, for every value of `last` and the lanes: `VOUT = 0b1_010_00`. -/
def Obligations.ValShortVerdict : Prop :=
  (∀ (last : Bool) (c0 c1 c2 c3 : Byte) (s : State),
    exec (.valShort last c0 c1 c2 c3) s = .next { s with
      sel := .validator
      valIn := ⟨false, last, c0, c1, c2, c3⟩
      valOut := ⟨true, 0b010, 0⟩ }) ∧
  ValOut.vout ⟨true, 0b010, 0⟩ = 0b101000

/-- R101: for every operation of unit V the error output is the OR of the three cause bits; the reachable causes are `000`, `001`, `100`, `101` on full groups and `010` on short ones, and each of them is reached. -/
def Obligations.CauseBitsOfValidator : Prop :=
  (∀ (i : Instr) (s : State), i.unit = .validator → ∃ t, exec i s = .next t ∧
    t.valOut.err = (t.valOut.cause.getLsbD 0 || t.valOut.cause.getLsbD 1 || t.valOut.cause.getLsbD 2) ∧
    (t.valIn.full = true → t.valOut.cause = 0b000 ∨ t.valOut.cause = 0b001 ∨ t.valOut.cause = 0b100 ∨ t.valOut.cause = 0b101) ∧
    (t.valIn.full = false → t.valOut.cause = 0b010)) ∧
  (∀ c : BitVec 3, (c = 0b000 ∨ c = 0b001 ∨ c = 0b100 ∨ c = 0b101 ∨ c = 0b010) →
    ∃ (i : Instr) (t : State), exec i State.reset = .next t ∧ t.valOut.cause = c)

/-- R105: `val_pad_o` is 1 exactly for a full final group whose lanes 0 to 2 are `SYM` and lane 3 is `PAD`, 2 exactly for one whose lanes 0 and 1 are `SYM` and lanes 2 and 3 are `PAD`, and 0 otherwise. The spec marks the rule as its own derivation. -/
def Obligations.PadOutputOfValidator : Prop :=
  ∀ (i : Instr) (s : State), i.unit = .validator → ∃ t, exec i s = .next t ∧
    (t.valOut.pad = 1 ↔ t.valIn.full = true ∧ t.valIn.last = true ∧
      IsSymbol t.valIn.c0 ∧ IsSymbol t.valIn.c1 ∧ IsSymbol t.valIn.c2 ∧ classOf t.valIn.c3 = .pad) ∧
    (t.valOut.pad = 2 ↔ t.valIn.full = true ∧ t.valIn.last = true ∧
      IsSymbol t.valIn.c0 ∧ IsSymbol t.valIn.c1 ∧ classOf t.valIn.c2 = .pad ∧ classOf t.valIn.c3 = .pad) ∧
    (t.valOut.pad = 0 ∨ t.valOut.pad = 1 ∨ t.valOut.pad = 2)

/-! ### Unit D -/

/-- R122: `DEC.MID` drives the three bytes of four symbols, bit by bit as R62 spells them, and the error outputs of R125 when a lane is `BAD` or `=`; on all-`SYM` groups it is inverse to `ENC3`; the rule's corner cases and example. -/
def Obligations.DecMidBytes : Prop :=
  (∀ (c0 c1 c2 c3 : Byte) (s : State),
    let bad := decide (classOf c0 = .bad ∨ classOf c1 = .bad ∨ classOf c2 = .bad ∨ classOf c3 = .bad)
    let pad := decide (c0 = 0x3D#8 ∨ c1 = 0x3D#8 ∨ c2 = 0x3D#8 ∨ c3 = 0x3D#8)
    exec (.decMid c0 c1 c2 c3) s = .next { s with
      sel := .decoder
      decIn := ⟨true, false, c0, c1, c2, c3⟩
      decOut :=
        if bad || pad then ⟨true, BitVec.ofBool pad ++ 0#1 ++ BitVec.ofBool bad, 0, 0, 0x00, 0x00, 0x00⟩
        else ⟨false, 0b000, 0, 3, idx6 c0 ++ (idx6 c1).extractLsb' 4 2,
          (idx6 c1).extractLsb' 0 4 ++ (idx6 c2).extractLsb' 2 4, (idx6 c2).extractLsb' 0 2 ++ idx6 c3⟩ }) ∧
  (∀ (i0 i1 i2 i3 : Sym) (s : State), ∃ t u,
    exec (.decMid (symToChar i0) (symToChar i1) (symToChar i2) (symToChar i3)) s = .next t ∧ t.decOut.err = false ∧
    exec (.enc3 t.decOut.b0 t.decOut.b1 t.decOut.b2) t = .next u ∧
    u.encOut = ⟨4, symToChar i0, symToChar i1, symToChar i2, symToChar i3⟩) ∧
  (∀ (b0 b1 b2 : Byte) (s : State), ∃ t u, exec (.enc3 b0 b1 b2) s = .next t ∧
    exec (.decMid t.encOut.s0 t.encOut.s1 t.encOut.s2 t.encOut.s3) t = .next u ∧
    u.decOut = ⟨false, 0b000, 0, 3, b0, b1, b2⟩) ∧
  (∀ s : State, ∃ t, exec (.decMid 0x41 0x41 0x41 0x41) s = .next t ∧ t.decOut = ⟨false, 0b000, 0, 3, 0x00, 0x00, 0x00⟩) ∧
  (∀ s : State, ∃ t, exec (.decMid 0x2F 0x2F 0x2F 0x2F) s = .next t ∧ t.decOut = ⟨false, 0b000, 0, 3, 0xFF, 0xFF, 0xFF⟩) ∧
  (∀ s : State, ∃ t, exec (.decMid 0x54 0x57 0x46 0x75) s = .next t ∧ t.decOut = ⟨false, 0b000, 0, 3, 0x4D, 0x61, 0x6E⟩)

/-- R123: `DEC.LAST` drives `3 - pad` bytes, the dropped lanes at `0x00`, and the error outputs of R125 when the verdict of VAL.LAST is an error; with no pad it is DEC.MID on the same lanes; the rule's examples. -/
def Obligations.DecLastBytes : Prop :=
  (∀ (c0 c1 c2 c3 : Byte) (s : State),
    let bad := decide (classOf c0 = .bad ∨ classOf c1 = .bad ∨ classOf c2 = .bad ∨ classOf c3 = .bad)
    let pad := decide (c0 = 0x3D#8 ∨ c1 = 0x3D#8 ∨ (c2 = 0x3D#8 ∧ c3 ≠ 0x3D#8))
    exec (.decLast c0 c1 c2 c3) s = .next { s with
      sel := .decoder
      decIn := ⟨true, true, c0, c1, c2, c3⟩
      decOut :=
        if bad || pad then ⟨true, BitVec.ofBool pad ++ 0#1 ++ BitVec.ofBool bad, 0, 0, 0x00, 0x00, 0x00⟩
        else if c2 = 0x3D#8 then ⟨false, 0b000, 2, 1, idx6 c0 ++ (idx6 c1).extractLsb' 4 2, 0x00, 0x00⟩
        else if c3 = 0x3D#8 then ⟨false, 0b000, 1, 2, idx6 c0 ++ (idx6 c1).extractLsb' 4 2,
          (idx6 c1).extractLsb' 0 4 ++ (idx6 c2).extractLsb' 2 4, 0x00⟩
        else ⟨false, 0b000, 0, 3, idx6 c0 ++ (idx6 c1).extractLsb' 4 2,
          (idx6 c1).extractLsb' 0 4 ++ (idx6 c2).extractLsb' 2 4, (idx6 c2).extractLsb' 0 2 ++ idx6 c3⟩ }) ∧
  (∀ (c0 c1 c2 c3 : Byte) (s : State), ∃ t u, exec (.decLast c0 c1 c2 c3) s = .next t ∧
    exec (.decMid c0 c1 c2 c3) s = .next u ∧ (t.decOut.err = false ∧ t.decOut.pad = 0 → t.decOut = u.decOut)) ∧
  (∀ s : State, ∃ t, exec (.decLast 0x54 0x51 0x3D 0x3D) s = .next t ∧ t.decOut = ⟨false, 0b000, 2, 1, 0x4D, 0x00, 0x00⟩) ∧
  (∀ s : State, ∃ t, exec (.decLast 0x54 0x57 0x45 0x3D) s = .next t ∧ t.decOut = ⟨false, 0b000, 1, 2, 0x4D, 0x61, 0x00⟩) ∧
  (∀ s : State, ∃ t, exec (.decLast 0x54 0x57 0x46 0x75) s = .next t ∧ t.decOut = ⟨false, 0b000, 0, 3, 0x4D, 0x61, 0x6E⟩)

/-- R124: `DEC.SHORT` drives the error with cause `LEN` and no bytes, for every value of `last` and the lanes: `DOUT = 0xA0000000`. -/
def Obligations.DecShortError : Prop :=
  (∀ (last : Bool) (c0 c1 c2 c3 : Byte) (s : State),
    exec (.decShort last c0 c1 c2 c3) s = .next { s with
      sel := .decoder
      decIn := ⟨false, last, c0, c1, c2, c3⟩
      decOut := ⟨true, 0b010, 0, 0, 0x00, 0x00, 0x00⟩ }) ∧
  DecOut.dout ⟨true, 0b010, 0, 0, 0x00, 0x00, 0x00⟩ = 0xA0000000

/-- R16, R121: for equal inputs D's `err`, `cause` and `pad` are V's, in every form and from any two states. -/
def Obligations.DecoderVerdictIsValidators : Prop :=
  ∀ (c0 c1 c2 c3 : Byte) (last : Bool) (s s' : State),
    (∃ t u, exec (.valMid c0 c1 c2 c3) s = .next t ∧ exec (.decMid c0 c1 c2 c3) s' = .next u ∧
      u.decOut.err = t.valOut.err ∧ u.decOut.cause = t.valOut.cause ∧ u.decOut.pad = t.valOut.pad) ∧
    (∃ t u, exec (.valLast c0 c1 c2 c3) s = .next t ∧ exec (.decLast c0 c1 c2 c3) s' = .next u ∧
      u.decOut.err = t.valOut.err ∧ u.decOut.cause = t.valOut.cause ∧ u.decOut.pad = t.valOut.pad) ∧
    (∃ t u, exec (.valShort last c0 c1 c2 c3) s = .next t ∧ exec (.decShort last c0 c1 c2 c3) s' = .next u ∧
      u.decOut.err = t.valOut.err ∧ u.decOut.cause = t.valOut.cause ∧ u.decOut.pad = t.valOut.pad)

/-- R125: whenever `dec_err_o = 1` after an operation of unit D, its length, byte and pad outputs are zero; the cause holds the cause bits of the inputs, at least one of them on an error. -/
def Obligations.NoBytesOnError : Prop :=
  ∀ (i : Instr) (s : State), i.unit = .decoder → ∃ t, exec i s = .next t ∧
    (t.decOut.err = true → t.decOut.len = 0 ∧ t.decOut.b0 = 0x00 ∧ t.decOut.b1 = 0x00 ∧ t.decOut.b2 = 0x00 ∧
      t.decOut.pad = 0 ∧ t.decOut.cause ≠ 0) ∧
    t.decOut.cause = causeBits (charCause t.decIn) (lenCause t.decIn) (padCause t.decIn)

/-- R126 item 2: exactly the 16 groups `s0 s1 = =` whose second symbol agrees in its top two bits decode to a given byte, and exactly 4 groups `s0 s1 s2 =` to given two bytes: the discarded bits are free. The spec marks this consequence as its own derivation. -/
def Obligations.DiscardedBitsAreFree : Prop :=
  (∀ (c0 c1 b : Byte) (s : State), ∃ t, exec (.decLast c0 c1 0x3D 0x3D) s = .next t ∧
    (t.decOut = ⟨false, 0b000, 2, 1, b, 0x00, 0x00⟩ ↔
      c0 = symToChar (b.extractLsb' 2 6) ∧ ∃ k : BitVec 4, c1 = symToChar (b.extractLsb' 0 2 ++ k))) ∧
  (∀ (c0 c1 c2 b b' : Byte) (s : State), ∃ t, exec (.decLast c0 c1 c2 0x3D) s = .next t ∧
    (t.decOut = ⟨false, 0b000, 1, 2, b, b', 0x00⟩ ↔
      c0 = symToChar (b.extractLsb' 2 6) ∧ c1 = symToChar (b.extractLsb' 0 2 ++ b'.extractLsb' 4 4) ∧
      ∃ k : BitVec 2, c2 = symToChar (b'.extractLsb' 0 4 ++ k)))

/-- R127: what unit E encodes, unit D decodes back, group by group, whatever stood on the ignored lanes. The spec marks the rule as its own derivation. -/
def Obligations.GroupRoundTrip : Prop :=
  ∀ (b0 b1 b2 y z : Byte) (s : State),
    (∃ t, exec (.enc3 b0 b1 b2) s = .next t ∧
      (∃ u, exec (.decMid t.encOut.s0 t.encOut.s1 t.encOut.s2 t.encOut.s3) t = .next u ∧
        u.decOut = ⟨false, 0b000, 0, 3, b0, b1, b2⟩) ∧
      (∃ u, exec (.decLast t.encOut.s0 t.encOut.s1 t.encOut.s2 t.encOut.s3) t = .next u ∧
        u.decOut = ⟨false, 0b000, 0, 3, b0, b1, b2⟩)) ∧
    (∃ t, exec (.enc2 b0 b1 y) s = .next t ∧ t.encOut.s3 = 0x3D ∧
      ∃ u, exec (.decLast t.encOut.s0 t.encOut.s1 t.encOut.s2 0x3D) t = .next u ∧
        u.decOut = ⟨false, 0b000, 1, 2, b0, b1, 0x00⟩) ∧
    (∃ t, exec (.enc1 b0 y z) s = .next t ∧ t.encOut.s2 = 0x3D ∧ t.encOut.s3 = 0x3D ∧
      ∃ u, exec (.decLast t.encOut.s0 t.encOut.s1 0x3D 0x3D) t = .next u ∧
        u.decOut = ⟨false, 0b000, 2, 1, b0, 0x00, 0x00⟩)

/-! ### Rules over all operations -/

/-- R172: which operations can raise the error: VAL.MID, VAL.LAST, DEC.MID, DEC.LAST on some data and not on other, VAL.SHORT and DEC.SHORT always, and no operation of unit E moves an error output. -/
def Obligations.WhichOperationsRaise : Prop :=
  (∀ s : State, ∃ t, exec (.valMid 0x24 0x41 0x41 0x41) s = .next t ∧ t.valOut.err = true) ∧
  (∀ s : State, ∃ t, exec (.valMid 0x41 0x41 0x41 0x41) s = .next t ∧ t.valOut.err = false) ∧
  (∀ s : State, ∃ t, exec (.valLast 0x41 0x3D 0x41 0x41) s = .next t ∧ t.valOut.err = true) ∧
  (∀ s : State, ∃ t, exec (.valLast 0x41 0x41 0x3D 0x3D) s = .next t ∧ t.valOut.err = false) ∧
  (∀ s : State, ∃ t, exec (.decMid 0x24 0x41 0x41 0x41) s = .next t ∧ t.decOut.err = true) ∧
  (∀ s : State, ∃ t, exec (.decMid 0x41 0x41 0x41 0x41) s = .next t ∧ t.decOut.err = false) ∧
  (∀ s : State, ∃ t, exec (.decLast 0x41 0x3D 0x41 0x41) s = .next t ∧ t.decOut.err = true) ∧
  (∀ s : State, ∃ t, exec (.decLast 0x41 0x41 0x3D 0x3D) s = .next t ∧ t.decOut.err = false) ∧
  (∀ (last : Bool) (c0 c1 c2 c3 : Byte) (s : State),
    (∃ t, exec (.valShort last c0 c1 c2 c3) s = .next t ∧ t.valOut.err = true) ∧
    (∃ t, exec (.decShort last c0 c1 c2 c3) s = .next t ∧ t.decOut.err = true)) ∧
  (∀ (i : Instr) (s : State), i.unit = .encoder → ∃ t, exec i s = .next t ∧
    t.valOut.err = s.valOut.err ∧ t.decOut.err = s.decOut.err)

/-- The frame of every operation (R21, R38): it answers a next state, in which the ports of the other two units are as before. -/
def Obligations.UnitsShareNoSignal : Prop :=
  ∀ (i : Instr) (s : State), ∃ t, exec i s = .next t ∧ s.SameElsewhere i.unit t

/-- R19, R40: two evaluations with equal inputs give equal outputs, whatever the two states hold otherwise. The spec marks the rule as its own derivation. -/
def Obligations.OutputsIgnoreHistory : Prop :=
  ∀ (b : Bundle) (s s' : State), ∃ t t', step (s.present b) = .next t ∧ step (s'.present b) = .next t' ∧
    State.SameAt b.unit t t'

/-- R63: an ignored lane may hold any value without effect on any output. -/
def Obligations.IgnoredLanesHaveNoEffect : Prop :=
  ∀ (b0 b1 b2 x0 x1 x2 c0 c1 c2 c3 d0 d1 d2 d3 : Byte) (l l' : Bool) (s s' : State),
    (∃ t t', exec (.enc2 b0 b1 b2) s = .next t ∧ exec (.enc2 b0 b1 x2) s' = .next t' ∧ t.encOut = t'.encOut) ∧
    (∃ t t', exec (.enc1 b0 b1 b2) s = .next t ∧ exec (.enc1 b0 x1 x2) s' = .next t' ∧ t.encOut = t'.encOut) ∧
    (∃ t t', exec (.enc0 b0 b1 b2) s = .next t ∧ exec (.enc0 x0 x1 x2) s' = .next t' ∧ t.encOut = t'.encOut) ∧
    (∃ t t', exec (.valShort l c0 c1 c2 c3) s = .next t ∧ exec (.valShort l' d0 d1 d2 d3) s' = .next t' ∧ t.valOut = t'.valOut) ∧
    (∃ t t', exec (.decShort l c0 c1 c2 c3) s = .next t ∧ exec (.decShort l' d0 d1 d2 d3) s' = .next t' ∧ t.decOut = t'.decOut)

/-- R197: a length smaller than the number of real bytes silently drops bytes: `ENC2` and `ENC1` show the symbols `ENC3` shows for the group with the dropped bytes zero, in the lanes that are not `=`. -/
def Obligations.ShorterLengthDropsBytes : Prop :=
  ∀ (b0 b1 b2 : Byte) (s : State),
    (∃ t u, exec (.enc2 b0 b1 b2) s = .next t ∧ exec (.enc3 b0 b1 0x00) s = .next u ∧
      t.encOut.s0 = u.encOut.s0 ∧ t.encOut.s1 = u.encOut.s1 ∧ t.encOut.s2 = u.encOut.s2) ∧
    (∃ t u, exec (.enc1 b0 b1 b2) s = .next t ∧ exec (.enc3 b0 0x00 0x00) s = .next u ∧
      t.encOut.s0 = u.encOut.s0 ∧ t.encOut.s1 = u.encOut.s1)

/-- R196: `last = 0` on a final group that is correctly padded makes it fail with cause `PAD`, in V and in D. From R102, R103 and R123, by the model's inference: a group valid as non-final is valid as final, with no pad and the same bytes. -/
def Obligations.FlagDiscipline : Prop :=
  ∀ (c0 c1 c2 c3 : Byte) (s : State), ∃ f m fd md,
    exec (.valLast c0 c1 c2 c3) s = .next f ∧ exec (.valMid c0 c1 c2 c3) s = .next m ∧
    exec (.decLast c0 c1 c2 c3) s = .next fd ∧ exec (.decMid c0 c1 c2 c3) s = .next md ∧
    (f.valOut.err = false ∧ f.valOut.pad ≠ 0 → m.valOut = ⟨true, 0b100, 0⟩) ∧
    (fd.decOut.err = false ∧ fd.decOut.pad ≠ 0 → md.decOut = ⟨true, 0b100, 0, 0, 0x00, 0x00, 0x00⟩) ∧
    (m.valOut.err = false → f.valOut = ⟨false, 0b000, 0⟩) ∧
    (md.decOut.err = false → fd.decOut = md.decOut)

/-! ### The step -/

/-- A step runs the operation that the input ports of the selected unit encode; after a bundle is presented, the operation the bundle decodes to; after an opcode-table word is presented, the operation the word decodes to, with that unit selected, its outputs following its inputs, and the other units' ports as before. That a program is what the environment presents is the model's choice (log entries 3 and 4). -/
def Obligations.StepRunsDecodedOperation : Prop :=
  (∀ s : State, step s = exec (decode s.fetch) s) ∧
  (∀ (b : Bundle) (s : State), step (s.present b) = exec (decode b) (s.present b)) ∧
  (∀ (i : Instr) (s : State), evaluate i s = exec i s) ∧
  (∀ (nbits w : Nat) (i : Instr) (s : State), decodeTableWord nbits w = some i →
    step (s.withFetchWord nbits w) = exec i (s.withFetchWord nbits w) ∧
    (s.withFetchWord nbits w).sel = i.unit ∧
    s.SameElsewhere i.unit (s.withFetchWord nbits w) ∧ (s.withFetchWord nbits w).UnitSettled i.unit)

/-- R6: a step is one evaluation of one unit as a total pure function from its input ports to its output ports, written port by port over all control values; nothing else changes. Which unit a step evaluates is told by the model's own field `sel` (log entry 2). -/
def Obligations.StepIsUnitFunction : Prop :=
  ∀ s : State, step s = .next (match s.sel with
    | .encoder => { s with encOut := encUnit s.encIn }
    | .validator => { s with valOut := valUnit s.valIn }
    | .decoder => { s with decOut := decUnit s.decIn })

/-- R63, U14: no operation and no step ever stops. -/
def Obligations.NothingStopsTheBlock : Prop :=
  (∀ (i : Instr) (s : State), ∃ t, exec i s = .next t) ∧ (∀ s : State, ∃ t, step s = .next t)

/-- R38: evaluations are idempotent: the step after a step changes nothing. -/
def Obligations.StepIsIdempotent : Prop :=
  ∀ s : State, ∃ t, step s = .next t ∧ step t = .next t

/-! ### Invariants -/

/-- R20: a state where every output port holds the value the rules give for the inputs present is followed by such a state, whether a step is made, an operation performed, or a bundle or an opcode-table word presented; and from any state the unit stepped, or presented to, carries what the rules give. That outputs are stored beside the inputs and moved with them is the model's form of the rule (log entry 5). -/
def Obligations.SettledIsKept : Prop :=
  (∀ s t : State, s.Settled → step s = .next t → t.Settled) ∧
  (∀ (i : Instr) (s t : State), s.Settled → exec i s = .next t → t.Settled) ∧
  (∀ (i : Instr) (s t : State), s.Settled → evaluate i s = .next t → t.Settled) ∧
  (∀ (b : Bundle) (s : State), s.Settled → (s.present b).Settled) ∧
  (∀ (nbits w : Nat) (s : State), s.Settled → (s.withFetchWord nbits w).Settled) ∧
  (∀ s t : State, step s = .next t → t.UnitSettled s.sel) ∧
  (∀ (b : Bundle) (s : State), (s.present b).UnitSettled b.unit)

/-- R10, R17: outputs describe the inputs present now and are not sticky. Once a unit's outputs carry what the rules give for its inputs, as they do from the moment a bundle is presented, evaluating it changes nothing; and what stands on a unit's ports after a bundle is presented does not depend on what stood there before, while the other units' ports stay as they were. That outputs are stored beside the inputs and moved with them is the model's form of the rule (log entry 5). -/
def Obligations.OutputsFollowInputs : Prop :=
  (∀ s : State, s.UnitSettled s.sel → step s = .next s) ∧
  (∀ (b : Bundle) (s : State), step (s.present b) = .next (s.present b)) ∧
  (∀ (b : Bundle) (s s' : State), State.SameAt b.unit (s.present b) (s'.present b)) ∧
  (∀ (b : Bundle) (s : State), s.SameElsewhere b.unit (s.present b))

/-- The reset state is settled (R20, R192). The input levels at reset are the model's own choice, log entries 1 and 2. -/
def Obligations.ResetIsSettled : Prop := State.reset.Settled

/-- R14, R15, R16: the legal values of all ports together are kept by a step and by an evaluation of any operation. -/
def Obligations.PortsStayLegal : Prop :=
  (∀ s t : State, s.PortsLegal → step s = .next t → t.PortsLegal) ∧
  (∀ (i : Instr) (s t : State), s.PortsLegal → evaluate i s = .next t → t.PortsLegal)

/-- The reset state's ports are legal, and a step from it is the evaluation of ENC0 on zero lanes, which changes nothing. The input levels and the selected unit at reset are the model's own choice, log entries 1 and 2. -/
def Obligations.ResetPortsAreLegal : Prop :=
  State.reset.PortsLegal ∧ step State.reset = .next State.reset

/-! ### Encodings -/

/-- Decode and encode agree on every operation with every operand at every value (R55, R57, R60). -/
def Obligations.DecodeOfEncode : Prop := ∀ i : Instr, decode (encode i) = i

/-- Encode and decode agree on every value of every input bundle (R55, R57, R60). -/
def Obligations.EncodeOfDecode : Prop := ∀ b : Bundle, encode (decode b) = b

/-- R60: there are ten operations, and every value of every input bundle lies in exactly one row of the operation map, the row of the operation it decodes to. -/
def Obligations.EveryBundleSelectsOneOperation : Prop :=
  opTable.length = 10 ∧ ∀ b : Bundle, opTable.filter (fun r => r.covers b) = [opRow (decode b)]

/-- Words written out from the spec's vectors decode to the operations they stand for (one per operation; `95_test_vectors.md`). -/
def Obligations.SampleWordsDecode : Prop :=
  decode (.e 0x04D616E) = .enc0 0x4D 0x61 0x6E ∧
  decode (.e 0x14DFFFF) = .enc1 0x4D 0xFF 0xFF ∧
  decode (.e 0x24D61FF) = .enc2 0x4D 0x61 0xFF ∧
  decode (.e 0x34D616E) = .enc3 0x4D 0x61 0x6E ∧
  decode (.v 0x2413D2441) = .valMid 0x41 0x3D 0x24 0x41 ∧
  decode (.v 0x35457453D) = .valLast 0x54 0x57 0x45 0x3D ∧
  decode (.v 0x154513D2D) = .valShort true 0x54 0x51 0x3D 0x2D ∧
  decode (.d 0x22B2F2B2F) = .decMid 0x2B 0x2F 0x2B 0x2F ∧
  decode (.d 0x354663D3D) = .decLast 0x54 0x66 0x3D 0x3D ∧
  decode (.d 0x054513D3D) = .decShort false 0x54 0x51 0x3D 0x3D

/-- A raw word is refused exactly when it has a bit the unit's bundle does not have: R55 and R57 give the widths, and that a wider word is refused is the model's DESIGN CHOICE (log entry 4). It is otherwise decoded from its low bits, to an operation of that unit. -/
def Obligations.StrayBitsAreRefused : Prop :=
  ∀ (u : UnitId) (w : Nat),
    (2 ^ Config.bundleWidth u ≤ w → decodeWord u w = .error .bitsAboveBundle) ∧
    (w < 2 ^ Config.bundleWidth u → decodeWord u w = .ok (decode (bundleOf u w)) ∧
      (bundleOf u w).toNat = w ∧ (decode (bundleOf u w)).unit = u)

/-- R55 to R59: every field of the five bundles stands at its bits, `EIN[23:0]` is `pack3` of the lanes, and `DOUT[31:26]` has the layout of `VOUT`. -/
def Obligations.BundleLayouts : Prop :=
  (∀ (len : BitVec 2) (b0 b1 b2 : Byte), let x := einOf len b0 b1 b2
    x.extractLsb' 24 2 = len ∧ x.extractLsb' 16 8 = b0 ∧ x.extractLsb' 8 8 = b1 ∧ x.extractLsb' 0 8 = b2 ∧
    x.extractLsb' 0 24 = pack3 b0 b1 b2) ∧
  (∀ o : EncOut, o.eout.extractLsb' 32 3 = o.nsym ∧ o.eout.extractLsb' 24 8 = o.s0 ∧
    o.eout.extractLsb' 16 8 = o.s1 ∧ o.eout.extractLsb' 8 8 = o.s2 ∧ o.eout.extractLsb' 0 8 = o.s3) ∧
  (∀ (full last : Bool) (c0 c1 c2 c3 : Byte), let x := ginOf full last c0 c1 c2 c3
    x.getLsbD 33 = full ∧ x.getLsbD 32 = last ∧ x.extractLsb' 24 8 = c0 ∧ x.extractLsb' 16 8 = c1 ∧
    x.extractLsb' 8 8 = c2 ∧ x.extractLsb' 0 8 = c3) ∧
  (∀ o : ValOut, o.vout.getLsbD 5 = o.err ∧ o.vout.getLsbD 4 = o.cause.getLsbD 2 ∧
    o.vout.getLsbD 3 = o.cause.getLsbD 1 ∧ o.vout.getLsbD 2 = o.cause.getLsbD 0 ∧ o.vout.extractLsb' 0 2 = o.pad) ∧
  (∀ o : DecOut, o.dout.getLsbD 31 = o.err ∧ o.dout.extractLsb' 28 3 = o.cause ∧ o.dout.extractLsb' 26 2 = o.pad ∧
    o.dout.extractLsb' 24 2 = o.len ∧ o.dout.extractLsb' 16 8 = o.b0 ∧ o.dout.extractLsb' 8 8 = o.b1 ∧
    o.dout.extractLsb' 0 8 = o.b2 ∧ o.dout.extractLsb' 26 6 = ValOut.vout ⟨o.err, o.cause, o.pad⟩)

/-! ### The constant tables and the 24-bit value -/

/-- R50: the alphabet has 64 entries, and the code of each index by ranges. The spec takes the numeric codes from general knowledge (G1; log entry 9). -/
def Obligations.AlphabetByRanges : Prop :=
  alpha.length = 64 ∧ ∀ i : Nat, i < 64 →
    (symToChar (BitVec.ofNat 6 i)).toNat =
      if i ≤ 25 then 0x41 + i else if i ≤ 51 then 0x61 + (i - 26) else if i ≤ 61 then 0x30 + (i - 52)
      else if i = 62 then 0x2B else 0x2F

/-- R52: `sym_to_char` is injective and never returns `=`. -/
def Obligations.SymbolCharactersDistinct : Prop :=
  (∀ i j : Sym, symToChar i = symToChar j → i = j) ∧ (∀ i : Sym, symToChar i ≠ 0x3D#8)

/-- R53: the class of a character is `SYM(idx)` exactly when it is that symbol's character, `PAD` exactly for `=`, and `BAD` otherwise; 64, 1 and 191 codes; the named `BAD` codes. The spec takes the numeric codes from general knowledge (G1; log entry 9). -/
def Obligations.ClassInvertsAlphabet : Prop :=
  (∀ (c : Byte) (i : Sym), classOf c = .sym i ↔ c = symToChar i) ∧
  (∀ c : Byte, classOf c = .pad ↔ c = 0x3D#8) ∧
  ((List.range 256).countP (fun n => decide (IsSymbol (BitVec.ofNat 8 n))) = 64) ∧
  ((List.range 256).countP (fun n => decide (classOf (BitVec.ofNat 8 n) = .pad)) = 1) ∧
  ((List.range 256).countP (fun n => decide (classOf (BitVec.ofNat 8 n) = .bad)) = 191) ∧
  (∀ n : Nat, n ≤ 0x2A ∨ (0x2C ≤ n ∧ n ≤ 0x2E) ∨ (0x3A ≤ n ∧ n ≤ 0x3C) ∨ (0x3E ≤ n ∧ n ≤ 0x40) ∨
    (0x5B ≤ n ∧ n ≤ 0x60) ∨ (0x7B ≤ n ∧ n ≤ 0xFF) → classOf (BitVec.ofNat 8 n) = .bad)

/-- R61: `pack3` is concatenation, and its four fields bit by bit. -/
def Obligations.Pack3Fields : Prop :=
  ∀ e0 e1 e2 : Byte, pack3 e0 e1 e2 = e0 ++ e1 ++ e2 ∧
    field0 (pack3 e0 e1 e2) = e0.extractLsb' 2 6 ∧
    field1 (pack3 e0 e1 e2) = e0.extractLsb' 0 2 ++ e1.extractLsb' 4 4 ∧
    field2 (pack3 e0 e1 e2) = e1.extractLsb' 0 4 ++ e2.extractLsb' 6 2 ∧
    field3 (pack3 e0 e1 e2) = e2.extractLsb' 0 6

/-- R62: `pack4` is concatenation, its three bytes bit by bit, and it undoes the field split of `pack3`. -/
def Obligations.Pack4Bytes : Prop :=
  (∀ i0 i1 i2 i3 : Sym, pack4 i0 i1 i2 i3 = i0 ++ i1 ++ i2 ++ i3 ∧
    byte0 (pack4 i0 i1 i2 i3) = i0 ++ i1.extractLsb' 4 2 ∧
    byte1 (pack4 i0 i1 i2 i3) = i1.extractLsb' 0 4 ++ i2.extractLsb' 2 4 ∧
    byte2 (pack4 i0 i1 i2 i3) = i2.extractLsb' 0 2 ++ i3) ∧
  (∀ e0 e1 e2 : Byte, let v := pack3 e0 e1 e2
    pack4 (field0 v) (field1 v) (field2 v) (field3 v) = v ∧ byte0 v = e0 ∧ byte1 v = e1 ∧ byte2 v = e2)

/-! ### The stream contract -/

/-- R140: `ENCODE x` makes `ceil(n/3)` evaluations; evaluation `g` is `ENC3` on three bytes, or on the last group `ENC2` or `ENC1`, with the bytes at `3g`, `3g+1`, `3g+2`; the sequence obeys R146 item 2. That the unused lanes are arguments is the model's form (log entry 11). -/
def Obligations.EncodeOpsFollowContract : Prop :=
  ∀ (y1 y2 : Byte) (x : List Byte),
    (encodeOps y1 y2 x).length = (x.length + 2) / 3 ∧
    encodeStreamWf (encodeOps y1 y2 x) = true ∧
    ∀ g : Nat, 3 * g < x.length →
      (encodeOps y1 y2 x)[g]? = some
        (if 3 * g + 2 < x.length then .enc3 (x.getD (3 * g) 0) (x.getD (3 * g + 1) 0) (x.getD (3 * g + 2) 0)
         else if 3 * g + 1 < x.length then .enc2 (x.getD (3 * g) 0) (x.getD (3 * g + 1) 0) y2
         else .enc1 (x.getD (3 * g) 0) y1 y2)

/-- R143: `DECODE s` makes `ceil(L/4)` evaluations of unit D, and the validation-only pass the same of unit V; evaluation `g` is `.MID` while more characters follow, `.LAST` on a full last group and `.SHORT` on a short one, with the characters at `4g` to `4g+3`; the sequences obey R146 items 3 and 4. That the unused lanes are arguments is the model's form (log entries 11 and 12). -/
def Obligations.DecodeOpsFollowContract : Prop :=
  ∀ (z1 z2 z3 : Byte) (str : List Byte),
    (decodeOps z1 z2 z3 str).length = (str.length + 3) / 4 ∧
    checkStreamWf .decoder (decodeOps z1 z2 z3 str) = true ∧
    checkStreamWf .validator (validateOps z1 z2 z3 str) = true ∧
    ∀ g : Nat, 4 * g < str.length →
      let c0 := str.getD (4 * g) 0
      let c1 := str.getD (4 * g + 1) z1
      let c2 := str.getD (4 * g + 2) z2
      let c3 := str.getD (4 * g + 3) z3
      (decodeOps z1 z2 z3 str)[g]? = some
        (if 4 * g + 4 < str.length then .decMid c0 c1 c2 c3
         else if 4 * g + 3 < str.length then .decLast c0 c1 c2 c3
         else .decShort true c0 c1 c2 c3) ∧
      (validateOps z1 z2 z3 str)[g]? = some
        (if 4 * g + 4 < str.length then .valMid c0 c1 c2 c3
         else if 4 * g + 3 < str.length then .valLast c0 c1 c2 c3
         else .valShort true c0 c1 c2 c3)

/-- R141: from any state, and whatever stands on the unused lanes, `ENCODE` never fails and equals the source's `encode` on the whole sequence; its length is `4 * ceil(n/3)`. -/
def Obligations.EncodeStreamIsSourceEncode : Prop :=
  ∀ (y1 y2 : Byte) (x : List Byte) (s : State),
    encodeStream y1 y2 x s = .next (sourceEncode x) ∧ (sourceEncode x).length = 4 * ((x.length + 2) / 3)

/-- R142 and R145's case `L = 0`: the empty sequence and the empty string make no evaluation and give empty results. -/
def Obligations.EmptyStreams : Prop :=
  ∀ (y1 y2 z1 z2 z3 : Byte) (s : State),
    encodeOps y1 y2 [] = [] ∧ encodeStream y1 y2 [] s = .next [] ∧
    decodeOps z1 z2 z3 [] = [] ∧ decodeStream z1 z2 z3 [] s = .next (.ok [])

/-- R144, R145: from any state `DECODE` is the source's `decode` on the whole string: the one error where the string is invalid, and otherwise all groups' bytes less the last `p`. -/
def Obligations.DecodeStreamIsSourceDecode : Prop :=
  ∀ (z1 z2 z3 : Byte) (str : List Byte) (s : State),
    decodeStream z1 z2 z3 str s = .next (sourceDecode str)

/-- R106: no group of a string errs in unit V exactly when the whole string has a length that is a multiple of 4, no `BAD` character, and its `=` characters are exactly its last 0, 1 or 2. The spec marks the rule as its own derivation. -/
def Obligations.GroupChecksAreStringCheck : Prop :=
  ∀ (z1 z2 z3 : Byte) (str : List Byte) (s : State), ∃ ok,
    validateStream z1 z2 z3 str s = .next ok ∧
    (ok = true ↔ str.length % 4 = 0 ∧ (∀ c ∈ str, classOf c ≠ .bad) ∧
      ∃ (body : List Byte) (p : Nat), p ≤ 2 ∧ str = body ++ List.replicate p 0x3D#8 ∧ 0x3D#8 ∉ body)

/-- R146 item 7: the validation-only pass accepts exactly the strings DECODE decodes, from any two states. The rule is said of the units' verdicts; that it carries over to whole strings is the model's inference. -/
def Obligations.ValidationPassAgreesWithDecode : Prop :=
  ∀ (z1 z2 z3 : Byte) (str : List Byte) (s s' : State), ∃ ok r,
    validateStream z1 z2 z3 str s = .next ok ∧ decodeStream z1 z2 z3 str s' = .next r ∧
    (ok = true ↔ ∃ x, r = .ok x)

/-- R147: "for all byte sequences x (including empty and length ≡ 1, 2, 0 mod 3), decode(encode(x)) == x", as runs of the hardware from any two states. -/
def Obligations.StreamRoundTrip : Prop :=
  ∀ (y1 y2 z1 z2 z3 : Byte) (x : List Byte) (s s' : State), ∃ str,
    encodeStream y1 y2 x s = .next str ∧ decodeStream z1 z2 z3 str s' = .next (.ok x)

/-- R148: the length of an encoded sequence is `4 * ceil(n/3)`, a multiple of 4, and of a decoded string `3L/4 - p`. The spec marks the second length as its own derivation. -/
def Obligations.StreamLengths : Prop :=
  (∀ (y1 y2 : Byte) (x : List Byte) (s : State), ∃ str, encodeStream y1 y2 x s = .next str ∧
    str.length % 4 = 0 ∧ str.length = 4 * ((x.length + 2) / 3)) ∧
  (∀ (z1 z2 z3 : Byte) (str x : List Byte) (s : State), decodeStream z1 z2 z3 str s = .next (.ok x) →
    x.length + trailingPads str = 3 * str.length / 4)

/-- R149: DECODE raises the error for any string of length not divisible by 4, for any string with a character outside the alphabet and `=`, and for any string with misplaced padding: a `=` before another character, or more than two of them; for example `"A=AA"`. -/
def Obligations.DecodeRejects : Prop :=
  ∀ (z1 z2 z3 : Byte) (s : State),
    (∀ str : List Byte, str.length % 4 ≠ 0 → decodeStream z1 z2 z3 str s = .next (.error .raised)) ∧
    (∀ (str : List Byte) (c : Byte), c ∈ str → classOf c = .bad → decodeStream z1 z2 z3 str s = .next (.error .raised)) ∧
    (∀ (a b : List Byte) (c : Byte), 0x3D#8 ∈ a → c ≠ 0x3D#8 → decodeStream z1 z2 z3 (a ++ c :: b) s = .next (.error .raised)) ∧
    (∀ str : List Byte, 2 < str.count 0x3D#8 → decodeStream z1 z2 z3 str s = .next (.error .raised)) ∧
    decodeStream z1 z2 z3 [0x41, 0x3D, 0x41, 0x41] s = .next (.error .raised)

/-- R150: `ENCODE (DECODE s) = s` holds exactly when the discarded bits of the final group are zero; it fails for `"TR=="`; DECODE is onto and not one-to-one. The spec marks the rule as its own derivation. -/
def Obligations.ReencodingOfDecoded : Prop :=
  (∀ (y1 y2 z1 z2 z3 : Byte) (str x : List Byte) (s s' : State),
    decodeStream z1 z2 z3 str s = .next (.ok x) →
    (encodeStream y1 y2 x s' = .next str ↔ discardedBitsZero str = true)) ∧
  (∀ (y1 y2 z1 z2 z3 : Byte) (s : State),
    decodeStream z1 z2 z3 [0x54, 0x52, 0x3D, 0x3D] s = .next (.ok [0x4D]) ∧
    decodeStream z1 z2 z3 [0x54, 0x51, 0x3D, 0x3D] s = .next (.ok [0x4D]) ∧
    encodeStream y1 y2 [0x4D] s = .next [0x54, 0x51, 0x3D, 0x3D]) ∧
  (∀ (z1 z2 z3 : Byte) (x : List Byte) (s : State), ∃ str, decodeStream z1 z2 z3 str s = .next (.ok x))

/-- Program P4 (R21, R199): with E's characters wired to D, a final group comes back with `dec_len_o = enc_len_i` and its real bytes, the ignored lanes as `00`; presented as non-final, a full group comes back alike and a padded one fails with cause `PAD`. -/
def Obligations.LoopBackComposesUnits : Prop :=
  ∀ (b0 b1 b2 : Byte) (s : State),
    (∃ t, evaluate (.enc3 b0 b1 b2) s = .next t ∧ ∀ last : Bool, ∃ u, step (t.present (loopBack last t)) = .next u ∧
      u.encOut = t.encOut ∧ u.decOut = ⟨false, 0b000, 0, 3, b0, b1, b2⟩) ∧
    (∃ t, evaluate (.enc2 b0 b1 b2) s = .next t ∧
      (∃ u, step (t.present (loopBack true t)) = .next u ∧ u.encOut = t.encOut ∧ u.decOut = ⟨false, 0b000, 1, 2, b0, b1, 0x00⟩) ∧
      (∃ u, step (t.present (loopBack false t)) = .next u ∧ u.encOut = t.encOut ∧ u.decOut = ⟨true, 0b100, 0, 0, 0x00, 0x00, 0x00⟩)) ∧
    (∃ t, evaluate (.enc1 b0 b1 b2) s = .next t ∧
      (∃ u, step (t.present (loopBack true t)) = .next u ∧ u.encOut = t.encOut ∧ u.decOut = ⟨false, 0b000, 2, 1, b0, 0x00, 0x00⟩) ∧
      (∃ u, step (t.present (loopBack false t)) = .next u ∧ u.encOut = t.encOut ∧ u.decOut = ⟨true, 0b100, 0, 0, 0x00, 0x00, 0x00⟩))

/-- R199: E's character outputs wired to V's or to D's character inputs give the composed function, for every input of E and every `full` and `last`. A short group errs with `LEN`; ENC0's filler errs with `CHAR`; a final group shows `3 - enc_len_i` pads and comes back; a padded group presented as non-final errs with `PAD`. A step on either unit of the wiring changes nothing. That wired inputs follow within the same presentation is the model's form of zero delay (log entries 5 and 7). -/
def Obligations.WiredUnitsCompose : Prop :=
  ∀ (len : BitVec 2) (b0 b1 b2 : Byte) (full last : Bool) (s : State),
    let x := einOf len b0 b1 b2
    let v := s.presentThroughV x full last
    let d := s.presentThroughD x full last
    v.encOut = encUnit ⟨len, b0, b1, b2⟩ ∧ d.encOut = encUnit ⟨len, b0, b1, b2⟩ ∧
    v.valIn = ⟨full, last, v.encOut.s0, v.encOut.s1, v.encOut.s2, v.encOut.s3⟩ ∧
    d.decIn = ⟨full, last, d.encOut.s0, d.encOut.s1, d.encOut.s2, d.encOut.s3⟩ ∧
    v.decOut = s.decOut ∧ d.valOut = s.valOut ∧
    step v = .next v ∧ step d = .next d ∧
    v.valOut =
      (if full = false then ⟨true, 0b010, 0⟩ else if len = 0 then ⟨true, 0b001, 0⟩
       else if last then ⟨false, 0b000, 3 - len⟩ else if len = 3 then ⟨false, 0b000, 0⟩ else ⟨true, 0b100, 0⟩) ∧
    d.decOut =
      (if full = false then ⟨true, 0b010, 0, 0, 0x00, 0x00, 0x00⟩
       else if len = 0 then ⟨true, 0b001, 0, 0, 0x00, 0x00, 0x00⟩
       else if len = 3 then ⟨false, 0b000, 0, 3, b0, b1, b2⟩
       else if last = false then ⟨true, 0b100, 0, 0, 0x00, 0x00, 0x00⟩
       else if len = 2 then ⟨false, 0b000, 1, 2, b0, b1, 0x00⟩
       else ⟨false, 0b000, 2, 1, b0, 0x00, 0x00⟩)

/-! ### The software around the block -/

/-- R155: the byte inverter is the bitwise complement of each byte, keeps the length, and is its own inverse. -/
def Obligations.InvertIsInvolution : Prop :=
  ∀ x : List Byte, invert (invert x) = x ∧ (invert x).length = x.length ∧
    ∀ k : Nat, k < x.length → (invert x).getD k 0 = ~~~(x.getD k 0)

/-- R159: what is obfuscated is deobfuscated back, for every text, every text encoding with the law of R158, and from any two states; and a text that the encoding makes the empty byte sequence goes to the empty string. -/
def Obligations.ObfuscationRoundTrip : Prop :=
  ∀ (Text : Type) (conv : TextConverter Text) (y1 y2 z1 z2 z3 : Byte) (text : Text) (s s' : State), ∃ str,
    obfuscate conv y1 y2 text s = .next str ∧
    deobfuscate conv z1 z2 z3 str s' = .next (.ok (some text)) ∧
    (conv.textToBytes text = [] → str = [])

/-- R157, R178, R185: deobfuscation fails with the error exactly when its DECODE fails, and passes it on unchanged. -/
def Obligations.DeobfuscationPassesErrorOn : Prop :=
  ∀ (Text : Type) (conv : TextConverter Text) (z1 z2 z3 : Byte) (str : List Byte) (s : State), ∃ r d,
    decodeStream z1 z2 z3 str s = .next r ∧ deobfuscate conv z1 z2 z3 str s = .next d ∧
    ∀ e : InvalidBase64Format, d = .error e ↔ r = .error e
end

