-- ==== Sys2Proof/Laws/Alphabet.lean ====
section
/-! SUPPORT. Small lemmas of the constant tables: what the class of a character is, and which lanes are pads (R50 to R54, R100). -/

namespace Sys2Proof.Machine

/-- The class of a symbol's character is that symbol (one direction of R53). -/
@[simp] theorem classOf_symToChar (i : Sym) : classOf (symToChar i) = .sym i := by
  revert i; decide

/-- A character whose class is a symbol is that symbol's character (the other direction of R53). -/
theorem eq_symToChar_of_class {c : Byte} {i : Sym} (h : classOf c = .sym i) : c = symToChar i := by
  have key : ∀ c : Byte, classOf c = .sym (idx6 c) → c = symToChar (idx6 c) := by decide
  have hi : idx6 c = i := by simp [idx6, h]
  simpa [hi] using key c (by rw [h, hi])

@[simp] theorem classOf_padChar : classOf Config.padChar = .pad := by decide

@[simp] theorem classOf_filler : classOf 0x00#8 = .bad := by decide

@[simp] theorem idx6_symToChar (i : Sym) : idx6 (symToChar i) = i := by simp [idx6]

@[simp] theorem idx6_padChar : idx6 Config.padChar = 0 := by decide

/-- "`m_j = 1` exactly when `val_cj_i = 0x3D`" (R100). -/
theorem lanePad_iff (c : Byte) : lanePad c = true ↔ c = Config.padChar := by
  revert c; decide

@[simp] theorem lanePad_symToChar (i : Sym) : lanePad (symToChar i) = false := by simp [lanePad]

@[simp] theorem lanePad_padChar : lanePad Config.padChar = true := by decide

@[simp] theorem laneBad_symToChar (i : Sym) : laneBad (symToChar i) = false := by simp [laneBad]

@[simp] theorem laneBad_padChar : laneBad Config.padChar = false := by decide

/-- "A lane is never both `bad` and `m`" (R100). -/
theorem lane_not_bad_and_pad (c : Byte) : (laneBad c && lanePad c) = false := by
  cases h : classOf c <;> simp [laneBad, lanePad, h]

/-- A lane that is neither `BAD` nor `PAD` holds a symbol. -/
theorem exists_symToChar {c : Byte} (hb : laneBad c = false) (hp : lanePad c = false) : ∃ i, c = symToChar i := by
  cases h : classOf c with
  | sym i => exact ⟨i, eq_symToChar_of_class h⟩
  | pad => simp [lanePad, h] at hp
  | bad => simp [laneBad, h] at hb

end Sys2Proof.Machine
end

