-- ==== Sys2Proof/Laws/State.lean ====
section
/-! SUPPORT. One lemma per field of State and update (driving a unit's ports, presenting a bundle), so that no proof unfolds a record update; and the fields of the reset state. -/

namespace Sys2Proof.Machine

section Put
variable (s : State) (i : EncIn) (o : EncOut) (g : GroupIn) (v : ValOut) (d : DecOut)

@[simp] theorem State.putE_sel : (s.putE i o).sel = .encoder := rfl
@[simp] theorem State.putE_encIn : (s.putE i o).encIn = i := rfl
@[simp] theorem State.putE_encOut : (s.putE i o).encOut = o := rfl
@[simp] theorem State.putE_valIn : (s.putE i o).valIn = s.valIn := rfl
@[simp] theorem State.putE_valOut : (s.putE i o).valOut = s.valOut := rfl
@[simp] theorem State.putE_decIn : (s.putE i o).decIn = s.decIn := rfl
@[simp] theorem State.putE_decOut : (s.putE i o).decOut = s.decOut := rfl

@[simp] theorem State.putV_sel : (s.putV g v).sel = .validator := rfl
@[simp] theorem State.putV_encIn : (s.putV g v).encIn = s.encIn := rfl
@[simp] theorem State.putV_encOut : (s.putV g v).encOut = s.encOut := rfl
@[simp] theorem State.putV_valIn : (s.putV g v).valIn = g := rfl
@[simp] theorem State.putV_valOut : (s.putV g v).valOut = v := rfl
@[simp] theorem State.putV_decIn : (s.putV g v).decIn = s.decIn := rfl
@[simp] theorem State.putV_decOut : (s.putV g v).decOut = s.decOut := rfl

@[simp] theorem State.putD_sel : (s.putD g d).sel = .decoder := rfl
@[simp] theorem State.putD_encIn : (s.putD g d).encIn = s.encIn := rfl
@[simp] theorem State.putD_encOut : (s.putD g d).encOut = s.encOut := rfl
@[simp] theorem State.putD_valIn : (s.putD g d).valIn = s.valIn := rfl
@[simp] theorem State.putD_valOut : (s.putD g d).valOut = s.valOut := rfl
@[simp] theorem State.putD_decIn : (s.putD g d).decIn = g := rfl
@[simp] theorem State.putD_decOut : (s.putD g d).decOut = d := rfl

/-- The same unit evaluated twice leaves what the second evaluation drives. -/
@[simp] theorem State.putE_putE (i' : EncIn) (o' : EncOut) : (s.putE i o).putE i' o' = s.putE i' o' := rfl
@[simp] theorem State.putV_putV (g' : GroupIn) (v' : ValOut) : (s.putV g v).putV g' v' = s.putV g' v' := rfl
@[simp] theorem State.putD_putD (g' : GroupIn) (d' : DecOut) : (s.putD g d).putD g' d' = s.putD g' d' := rfl

end Put

section Present
variable (s : State) (x : BitVec 26) (y : BitVec 34)

@[simp] theorem State.present_e_sel : (s.present (.e x)).sel = .encoder := rfl
@[simp] theorem State.present_e_encIn : (s.present (.e x)).encIn = EncIn.ofEin x := rfl
@[simp] theorem State.present_e_encOut : (s.present (.e x)).encOut = encUnit (EncIn.ofEin x) := rfl
@[simp] theorem State.present_e_valIn : (s.present (.e x)).valIn = s.valIn := rfl
@[simp] theorem State.present_e_valOut : (s.present (.e x)).valOut = s.valOut := rfl
@[simp] theorem State.present_e_decIn : (s.present (.e x)).decIn = s.decIn := rfl
@[simp] theorem State.present_e_decOut : (s.present (.e x)).decOut = s.decOut := rfl

@[simp] theorem State.present_v_sel : (s.present (.v y)).sel = .validator := rfl
@[simp] theorem State.present_v_encIn : (s.present (.v y)).encIn = s.encIn := rfl
@[simp] theorem State.present_v_encOut : (s.present (.v y)).encOut = s.encOut := rfl
@[simp] theorem State.present_v_valIn : (s.present (.v y)).valIn = GroupIn.ofGin y := rfl
@[simp] theorem State.present_v_valOut : (s.present (.v y)).valOut = valUnit (GroupIn.ofGin y) := rfl
@[simp] theorem State.present_v_decIn : (s.present (.v y)).decIn = s.decIn := rfl
@[simp] theorem State.present_v_decOut : (s.present (.v y)).decOut = s.decOut := rfl

@[simp] theorem State.present_d_sel : (s.present (.d y)).sel = .decoder := rfl
@[simp] theorem State.present_d_encIn : (s.present (.d y)).encIn = s.encIn := rfl
@[simp] theorem State.present_d_encOut : (s.present (.d y)).encOut = s.encOut := rfl
@[simp] theorem State.present_d_valIn : (s.present (.d y)).valIn = s.valIn := rfl
@[simp] theorem State.present_d_valOut : (s.present (.d y)).valOut = s.valOut := rfl
@[simp] theorem State.present_d_decIn : (s.present (.d y)).decIn = GroupIn.ofGin y := rfl
@[simp] theorem State.present_d_decOut : (s.present (.d y)).decOut = decUnit (GroupIn.ofGin y) := rfl

/-- Presenting a bundle and then evaluating its unit is evaluating its unit. -/
@[simp] theorem State.present_e_putE (i : EncIn) (o : EncOut) : (s.present (.e x)).putE i o = s.putE i o := rfl
@[simp] theorem State.present_v_putV (g : GroupIn) (v : ValOut) : (s.present (.v y)).putV g v = s.putV g v := rfl
@[simp] theorem State.present_d_putD (g : GroupIn) (d : DecOut) : (s.present (.d y)).putD g d = s.putD g d := rfl

/-- Presenting a bundle to a unit twice leaves what the second one drives. -/
@[simp] theorem State.present_e_present_e (x' : BitVec 26) : (s.present (.e x)).present (.e x') = s.present (.e x') := rfl
@[simp] theorem State.present_v_present_v (y' : BitVec 34) : (s.present (.v y)).present (.v y') = s.present (.v y') := rfl
@[simp] theorem State.present_d_present_d (y' : BitVec 34) : (s.present (.d y)).present (.d y') = s.present (.d y') := rfl

/-- The unit at hand after a bundle is presented. -/
theorem State.present_sel (b : Bundle) : (s.present b).sel = b.unit := by cases b <;> rfl

end Present

section Reset

@[simp] theorem State.reset_sel : State.reset.sel = .encoder := rfl
@[simp] theorem State.reset_encIn : State.reset.encIn = ⟨0, 0, 0, 0⟩ := rfl
@[simp] theorem State.reset_encOut : State.reset.encOut = ⟨0, 0, 0, 0, 0⟩ := rfl
@[simp] theorem State.reset_valIn : State.reset.valIn = ⟨false, false, 0, 0, 0, 0⟩ := rfl
@[simp] theorem State.reset_valOut : State.reset.valOut = ⟨true, 0b010#3, 0⟩ := rfl
@[simp] theorem State.reset_decIn : State.reset.decIn = ⟨false, false, 0, 0, 0, 0⟩ := rfl
@[simp] theorem State.reset_decOut : State.reset.decOut = ⟨true, 0b010#3, 0, 0, 0, 0, 0⟩ := rfl

end Reset

end Sys2Proof.Machine
end

