-- ==== Sys2Proof/Laws/Bundles.lean ====
section
/-! SUPPORT. Bundles bit by bit (R55, R57), and bundles against ports: what is presented is what stands on the ports. -/

namespace Sys2Proof

/-- The bits of an `EIN` value by lane (R55). -/
theorem einOf_getLsbD (len : BitVec 2) (b0 b1 b2 : Byte) (i : Nat) :
    (einOf len b0 b1 b2).getLsbD i =
      if i < 8 then b2.getLsbD i else if i < 16 then b1.getLsbD (i - 8)
      else if i < 24 then b0.getLsbD (i - 16) else len.getLsbD (i - 24) := by
  change BitVec.getLsbD (w := 2 + 8 + 8 + 8) (len ++ b0 ++ b1 ++ b2) i = _
  simp only [BitVec.getLsbD_append, Nat.sub_sub]
  repeat' split
  all_goals first | rfl | omega

/-- The bits of a `GIN` value by lane (R57). -/
theorem ginOf_getLsbD (full last : Bool) (c0 c1 c2 c3 : Byte) (i : Nat) :
    (ginOf full last c0 c1 c2 c3).getLsbD i =
      if i < 8 then c3.getLsbD i else if i < 16 then c2.getLsbD (i - 8)
      else if i < 24 then c1.getLsbD (i - 16) else if i < 32 then c0.getLsbD (i - 24)
      else if i = 32 then last else if i = 33 then full else false := by
  change BitVec.getLsbD (w := 1 + 1 + 8 + 8 + 8 + 8)
    (BitVec.ofBool full ++ BitVec.ofBool last ++ c0 ++ c1 ++ c2 ++ c3) i = _
  simp only [BitVec.getLsbD_append, Nat.sub_sub, BitVec.getLsbD_ofBool]
  repeat' split
  all_goals first | rfl | omega | (simp; done) | (simp; omega)

namespace Machine

/-- The fields of an `EIN` value joined again are that value (R55). -/
theorem einOf_fields (x : BitVec 26) :
    einOf (x.extractLsb' 24 2) (x.extractLsb' 16 8) (x.extractLsb' 8 8) (x.extractLsb' 0 8) = x := by
  refine BitVec.eq_of_getLsbD_eq fun i hi => ?_
  rw [einOf_getLsbD]
  interval_cases i <;> simp

/-- The fields of a `GIN` value joined again are that value (R57). -/
theorem ginOf_fields (x : BitVec 34) :
    ginOf (x.getLsbD 33) (x.getLsbD 32) (x.extractLsb' 24 8) (x.extractLsb' 16 8) (x.extractLsb' 8 8)
      (x.extractLsb' 0 8) = x := by
  refine BitVec.eq_of_getLsbD_eq fun i hi => ?_
  rw [ginOf_getLsbD]
  interval_cases i <;> simp

/-- What stands on unit E's input ports is what the bundle of it puts there. -/
@[simp] theorem EncIn.ofEin_ein (i : EncIn) : EncIn.ofEin i.ein = i := by
  obtain ⟨len, b0, b1, b2⟩ := i
  simp only [EncIn.ofEin, EncIn.ein, EncIn.mk.injEq]
  refine ⟨?_, ?_, ?_, ?_⟩ <;> refine BitVec.eq_of_getLsbD_eq fun j hj => ?_ <;>
    rw [BitVec.getLsbD_extractLsb', einOf_getLsbD] <;> interval_cases j <;> simp

/-- What stands on a set of format G input ports is what the bundle of it puts there. -/
@[simp] theorem GroupIn.ofGin_gin (g : GroupIn) : GroupIn.ofGin g.gin = g := by
  obtain ⟨full, last, c0, c1, c2, c3⟩ := g
  simp only [GroupIn.ofGin, GroupIn.gin, GroupIn.mk.injEq, ginOf_getLsbD]
  refine ⟨by simp, by simp, ?_, ?_, ?_, ?_⟩ <;> refine BitVec.eq_of_getLsbD_eq fun j hj => ?_ <;>
    rw [BitVec.getLsbD_extractLsb', ginOf_getLsbD] <;> interval_cases j <;> simp

/-- Unit V wired behind E sees E's characters. -/
@[simp] theorem State.presentThroughV_valIn (x : BitVec 26) (full last : Bool) (s : State) :
    (s.presentThroughV x full last).valIn = (encUnit (EncIn.ofEin x)).wired full last :=
  GroupIn.ofGin_gin _

/-- Unit D wired behind E sees E's characters. -/
@[simp] theorem State.presentThroughD_decIn (x : BitVec 26) (full last : Bool) (s : State) :
    (s.presentThroughD x full last).decIn = (encUnit (EncIn.ofEin x)).wired full last :=
  GroupIn.ofGin_gin _

/-- What the environment presents is what a step reads. -/
theorem State.fetch_present (s : State) (b : Bundle) : (s.present b).fetch = b := by
  cases b with
  | e x => exact congrArg Bundle.e (einOf_fields x)
  | v x => exact congrArg Bundle.v (ginOf_fields x)
  | d x => exact congrArg Bundle.d (ginOf_fields x)

end Machine

end Sys2Proof
end

