-- ==== Sys2Proof/Laws/Bits.lean ====
section
/-! SUPPORT. The bits of the concatenations the rules write, one lemma per shape of widths, so that a proof about a field goes bit by bit (R7: `{a, b}` has `a` most significant). -/

namespace Sys2Proof.Machine

theorem getLsbD_join_2_4 (x : BitVec 2) (y : BitVec 4) (i : Nat) :
    BitVec.getLsbD (w := 6) (x ++ y) i = if i < 4 then y.getLsbD i else x.getLsbD (i - 4) := by
  change BitVec.getLsbD (w := 2 + 4) (x ++ y) i = _
  rw [BitVec.getLsbD_append]

theorem getLsbD_join_4_2 (x : BitVec 4) (y : BitVec 2) (i : Nat) :
    BitVec.getLsbD (w := 6) (x ++ y) i = if i < 2 then y.getLsbD i else x.getLsbD (i - 2) := by
  change BitVec.getLsbD (w := 4 + 2) (x ++ y) i = _
  rw [BitVec.getLsbD_append]

theorem getLsbD_join_6_2 (x : BitVec 6) (y : BitVec 2) (i : Nat) :
    BitVec.getLsbD (w := 8) (x ++ y) i = if i < 2 then y.getLsbD i else x.getLsbD (i - 2) := by
  change BitVec.getLsbD (w := 6 + 2) (x ++ y) i = _
  rw [BitVec.getLsbD_append]

theorem getLsbD_join_4_4 (x y : BitVec 4) (i : Nat) :
    BitVec.getLsbD (w := 8) (x ++ y) i = if i < 4 then y.getLsbD i else x.getLsbD (i - 4) := by
  change BitVec.getLsbD (w := 4 + 4) (x ++ y) i = _
  rw [BitVec.getLsbD_append]

theorem getLsbD_join_2_6 (x : BitVec 2) (y : BitVec 6) (i : Nat) :
    BitVec.getLsbD (w := 8) (x ++ y) i = if i < 6 then y.getLsbD i else x.getLsbD (i - 6) := by
  change BitVec.getLsbD (w := 2 + 6) (x ++ y) i = _
  rw [BitVec.getLsbD_append]

theorem getLsbD_join_bytes (x y z : Byte) (i : Nat) :
    BitVec.getLsbD (w := 24) (x ++ y ++ z) i =
      if i < 8 then z.getLsbD i else if i < 16 then y.getLsbD (i - 8) else x.getLsbD (i - 16) := by
  change BitVec.getLsbD (w := 8 + 8 + 8) (x ++ y ++ z) i = _
  simp only [BitVec.getLsbD_append, Nat.sub_sub]
  repeat' split
  all_goals first | rfl | omega

theorem getLsbD_join_syms (x y z u : Sym) (i : Nat) :
    BitVec.getLsbD (w := 24) (x ++ y ++ z ++ u) i =
      if i < 6 then u.getLsbD i else if i < 12 then z.getLsbD (i - 6)
      else if i < 18 then y.getLsbD (i - 12) else x.getLsbD (i - 18) := by
  change BitVec.getLsbD (w := 6 + 6 + 6 + 6) (x ++ y ++ z ++ u) i = _
  simp only [BitVec.getLsbD_append, Nat.sub_sub]
  repeat' split
  all_goals first | rfl | omega

/-- The bits of `EOUT` by field (R56). -/
theorem EncOut.eout_getLsbD (o : EncOut) (i : Nat) :
    o.eout.getLsbD i =
      if i < 8 then o.s3.getLsbD i else if i < 16 then o.s2.getLsbD (i - 8)
      else if i < 24 then o.s1.getLsbD (i - 16) else if i < 32 then o.s0.getLsbD (i - 24)
      else o.nsym.getLsbD (i - 32) := by
  change BitVec.getLsbD (w := 3 + 8 + 8 + 8 + 8) (o.nsym ++ o.s0 ++ o.s1 ++ o.s2 ++ o.s3) i = _
  simp only [BitVec.getLsbD_append, Nat.sub_sub]
  repeat' split
  all_goals first | rfl | omega

/-- The bits of `VOUT` by field (R58). -/
theorem ValOut.vout_getLsbD (o : ValOut) (i : Nat) :
    o.vout.getLsbD i =
      if i < 2 then o.pad.getLsbD i else if i < 5 then o.cause.getLsbD (i - 2)
      else if i = 5 then o.err else false := by
  change BitVec.getLsbD (w := 1 + 3 + 2) (BitVec.ofBool o.err ++ o.cause ++ o.pad) i = _
  simp only [BitVec.getLsbD_append, Nat.sub_sub, BitVec.getLsbD_ofBool]
  repeat' split
  all_goals first | rfl | omega | (simp; done) | (simp; omega)

/-- The bits of `DOUT` by field (R59). -/
theorem DecOut.dout_getLsbD (o : DecOut) (i : Nat) :
    o.dout.getLsbD i =
      if i < 8 then o.b2.getLsbD i else if i < 16 then o.b1.getLsbD (i - 8)
      else if i < 24 then o.b0.getLsbD (i - 16) else if i < 26 then o.len.getLsbD (i - 24)
      else if i < 28 then o.pad.getLsbD (i - 26) else if i < 31 then o.cause.getLsbD (i - 28)
      else if i = 31 then o.err else false := by
  change BitVec.getLsbD (w := 1 + 3 + 2 + 2 + 8 + 8 + 8)
    (BitVec.ofBool o.err ++ o.cause ++ o.pad ++ o.len ++ o.b0 ++ o.b1 ++ o.b2) i = _
  simp only [BitVec.getLsbD_append, Nat.sub_sub, BitVec.getLsbD_ofBool]
  repeat' split
  all_goals first | rfl | omega | (simp; done) | (simp; omega)

/-- The cause bits of a cause field (R101). -/
theorem causeBits_getLsbD (char len pad : Bool) :
    (causeBits char len pad).getLsbD 0 = char ∧ (causeBits char len pad).getLsbD 1 = len ∧
      (causeBits char len pad).getLsbD 2 = pad := by
  revert char len pad; decide

end Sys2Proof.Machine
end

