-- ==== Sys2Proof/Laws/Ops.lean ====
section
/-! SUPPORT. One lemma per shared operation that says what it can do: the masked packing, the verdict, the gate, the error outputs, `exec` as a write of one unit's ports, and the run of a sequence of evaluations. -/

namespace Sys2Proof.Machine

/-! ### The masked packing of unit E (R80) -/

theorem encPack_three (b0 b1 b2 : Byte) : encPack 3 b0 b1 b2 = pack3 b0 b1 b2 := rfl
theorem encPack_two (b0 b1 b2 : Byte) : encPack 2 b0 b1 b2 = pack3 b0 b1 0 := rfl
theorem encPack_one (b0 b1 b2 : Byte) : encPack 1 b0 b1 b2 = pack3 b0 0 0 := rfl

/-! ### Verdicts and the gate (R101, R121, R125) -/

/-- A verdict is the error with the cause bits and no pad count, or no error with the pad count. -/
theorem verdict_eq (c : BitVec 3) (p : BitVec 2) :
    verdict c p = if c = 0 then { err := false, cause := 0, pad := p } else { err := true, cause := c, pad := 0 } := by
  have key : ∀ c : BitVec 3, (c.getLsbD 0 || c.getLsbD 1 || c.getLsbD 2) = !decide (c = 0) := by decide
  unfold verdict
  rw [key c]
  by_cases h : c = 0
  · subst h; rfl
  · simp only [h, decide_false, Bool.not_false, if_true, if_false]; rfl

/-- The cause field is zero exactly when no condition holds. -/
theorem causeBits_eq_zero (a b c : Bool) : causeBits a b c = 0 ↔ a = false ∧ b = false ∧ c = false := by
  revert a b c; decide

@[simp] theorem raiseInvalid_err (c : BitVec 3) : (raiseInvalid c).err = true := rfl
@[simp] theorem raiseInvalid_cause (c : BitVec 3) : (raiseInvalid c).cause = c := rfl
@[simp] theorem raiseInvalid_pad (c : BitVec 3) : (raiseInvalid c).pad = 0 := rfl

/-- What unit D drives on the error, port by port (R125). -/
theorem raiseInvalidD_eq (c : BitVec 3) :
    raiseInvalidD c = { err := true, cause := c, pad := 0, len := 0, b0 := 0, b1 := 0, b2 := 0 } := rfl

theorem gate_of_err {v : ValOut} (h : v.err = true) (len : BitVec 2) (b0 b1 b2 : Byte) :
    gate v len b0 b1 b2 = raiseInvalidD v.cause := by simp [gate, h]

theorem gate_of_ok {v : ValOut} (h : v.err = false) (len : BitVec 2) (b0 b1 b2 : Byte) :
    gate v len b0 b1 b2 = { err := false, cause := v.cause, pad := v.pad, len := len, b0 := b0, b1 := b1, b2 := b2 } := by
  simp [gate, h]

/-- The pad test of a final group, lane by lane: "equal to `m_0 | m_1 | (m_2 & ~m_3)`" (R103). -/
theorem padOk_eq (c0 c1 c2 c3 : Byte) :
    padOk c0 c1 c2 c3 = !(lanePad c0 || lanePad c1 || (lanePad c2 && !lanePad c3)) := by
  unfold padOk padMask
  cases lanePad c0 <;> cases lanePad c1 <;> cases lanePad c2 <;> cases lanePad c3 <;> rfl

/-! ### exec: one inversion lemma for all ten operations -/

/-- An evaluation that answers a next state has written the ports of one unit, the operation's, and nothing else. -/
theorem exec_next_put {i : Instr} {s t : State} (h : exec i s = .next t) :
    (i.unit = .encoder ∧ ∃ a o, t = s.putE a o) ∨
    (i.unit = .validator ∧ ∃ g o, t = s.putV g o) ∨
    (i.unit = .decoder ∧ ∃ g o, t = s.putD g o) := by
  cases i <;> cases h
  case enc0 | enc1 | enc2 | enc3 => exact .inl ⟨rfl, _, _, rfl⟩
  case valMid | valLast | valShort => exact .inr (.inl ⟨rfl, _, _, rfl⟩)
  case decMid | decLast | decShort => exact .inr (.inr ⟨rfl, _, _, rfl⟩)

/-! ### Sequences of evaluations -/

@[simp] theorem trace_nil (s : State) : trace [] s = .next [] := rfl

theorem trace_cons {i : Instr} {rest : List Instr} {s t : State} {ts : List State}
    (hi : evaluate i s = .next t) (hr : trace rest t = .next ts) : trace (i :: rest) s = .next (t :: ts) := by
  simp [trace, hi, hr]

@[simp] theorem joinTrace_next {α : Type} (f : List State → α) (ts : List State) :
    joinTrace f (.next ts) = .next (f ts) := rfl

@[simp] theorem encodeOps_nil (y1 y2 : Byte) : encodeOps y1 y2 [] = [] := rfl
@[simp] theorem encodeOps_one (y1 y2 a : Byte) : encodeOps y1 y2 [a] = [.enc1 a y1 y2] := rfl
@[simp] theorem encodeOps_two (y1 y2 a b : Byte) : encodeOps y1 y2 [a, b] = [.enc2 a b y2] := rfl
@[simp] theorem encodeOps_three (y1 y2 a b c : Byte) (rest : List Byte) :
    encodeOps y1 y2 (a :: b :: c :: rest) = .enc3 a b c :: encodeOps y1 y2 rest := rfl

section Groups
variable (mid fin short : Byte → Byte → Byte → Byte → Instr) (z1 z2 z3 a b c d e : Byte) (rest : List Byte)

@[simp] theorem groupOps_nil : groupOps mid fin short z1 z2 z3 [] = [] := rfl
@[simp] theorem groupOps_one : groupOps mid fin short z1 z2 z3 [a] = [short a z1 z2 z3] := rfl
@[simp] theorem groupOps_two : groupOps mid fin short z1 z2 z3 [a, b] = [short a b z2 z3] := rfl
@[simp] theorem groupOps_three : groupOps mid fin short z1 z2 z3 [a, b, c] = [short a b c z3] := rfl
@[simp] theorem groupOps_four : groupOps mid fin short z1 z2 z3 [a, b, c, d] = [fin a b c d] := rfl
@[simp] theorem groupOps_more :
    groupOps mid fin short z1 z2 z3 (a :: b :: c :: d :: e :: rest) =
      mid a b c d :: groupOps mid fin short z1 z2 z3 (e :: rest) := rfl

end Groups

end Sys2Proof.Machine
end

