-- ==== Sys2Proof/Laws/PerInstr.lean ====
section
/-! SUPPORT. The per-instruction family `TablePattern`: the bundle an operation is encoded as belongs to its unit and lies in its row of the operation map (R60). -/

namespace Sys2Proof.Laws

/-- The two selecting bits of an `EIN` value are its length field (R55, R60). -/
theorem ein_selecting_bits (len : BitVec 2) (b0 b1 b2 : Byte) :
    einOf len b0 b1 b2 &&& 0x3000000#26 = len.setWidth 26 <<< 24 := by
  refine BitVec.eq_of_getLsbD_eq fun i hi => ?_
  rw [BitVec.getLsbD_and, einOf_getLsbD]
  interval_cases i <;> simp

/-- The selecting bits of a full `GIN` value (R57, R60). -/
theorem gin_selecting_bits (full last : Bool) (c0 c1 c2 c3 : Byte) :
    ginOf full last c0 c1 c2 c3 &&& 0x300000000#34 = ginOf full last 0 0 0 0 := by
  refine BitVec.eq_of_getLsbD_eq fun i hi => ?_
  rw [BitVec.getLsbD_and, ginOf_getLsbD, ginOf_getLsbD]
  interval_cases i <;> simp

/-- The selecting bit of a short group (R57, R60). -/
theorem gin_full_bit (last : Bool) (c0 c1 c2 c3 : Byte) :
    ginOf false last c0 c1 c2 c3 &&& 0x200000000#34 = 0 := by
  refine BitVec.eq_of_getLsbD_eq fun i hi => ?_
  rw [BitVec.getLsbD_and, ginOf_getLsbD]
  interval_cases i <;> simp

def TablePattern.Statement (i : Instr) : Prop :=
  (encode i).unit = i.unit ∧ (opRow i).unit = i.unit ∧ (encode i).toNat &&& (opRow i).mask = (opRow i).pattern

theorem TablePattern.enc0 (b0 b1 b2 : Byte) : TablePattern.Statement (.enc0 b0 b1 b2) :=
  ⟨rfl, rfl, congrArg BitVec.toNat (ein_selecting_bits 0 b0 b1 b2)⟩

theorem TablePattern.enc1 (b0 b1 b2 : Byte) : TablePattern.Statement (.enc1 b0 b1 b2) :=
  ⟨rfl, rfl, congrArg BitVec.toNat (ein_selecting_bits 1 b0 b1 b2)⟩

theorem TablePattern.enc2 (b0 b1 b2 : Byte) : TablePattern.Statement (.enc2 b0 b1 b2) :=
  ⟨rfl, rfl, congrArg BitVec.toNat (ein_selecting_bits 2 b0 b1 b2)⟩

theorem TablePattern.enc3 (b0 b1 b2 : Byte) : TablePattern.Statement (.enc3 b0 b1 b2) :=
  ⟨rfl, rfl, congrArg BitVec.toNat (ein_selecting_bits 3 b0 b1 b2)⟩

theorem TablePattern.valMid (c0 c1 c2 c3 : Byte) : TablePattern.Statement (.valMid c0 c1 c2 c3) :=
  ⟨rfl, rfl, congrArg BitVec.toNat (gin_selecting_bits true false c0 c1 c2 c3)⟩

theorem TablePattern.valLast (c0 c1 c2 c3 : Byte) : TablePattern.Statement (.valLast c0 c1 c2 c3) :=
  ⟨rfl, rfl, congrArg BitVec.toNat (gin_selecting_bits true true c0 c1 c2 c3)⟩

theorem TablePattern.valShort (last : Bool) (c0 c1 c2 c3 : Byte) :
    TablePattern.Statement (.valShort last c0 c1 c2 c3) :=
  ⟨rfl, rfl, congrArg BitVec.toNat (gin_full_bit last c0 c1 c2 c3)⟩

theorem TablePattern.decMid (c0 c1 c2 c3 : Byte) : TablePattern.Statement (.decMid c0 c1 c2 c3) :=
  ⟨rfl, rfl, congrArg BitVec.toNat (gin_selecting_bits true false c0 c1 c2 c3)⟩

theorem TablePattern.decLast (c0 c1 c2 c3 : Byte) : TablePattern.Statement (.decLast c0 c1 c2 c3) :=
  ⟨rfl, rfl, congrArg BitVec.toNat (gin_selecting_bits true true c0 c1 c2 c3)⟩

theorem TablePattern.decShort (last : Bool) (c0 c1 c2 c3 : Byte) :
    TablePattern.Statement (.decShort last c0 c1 c2 c3) :=
  ⟨rfl, rfl, congrArg BitVec.toNat (gin_full_bit last c0 c1 c2 c3)⟩

end Sys2Proof.Laws
end

