-- ==== Sys2Proof/Tests/Slice0.lean ====
section
/-! SUPPORT. Small tests: words of the spec decoded, ill-formed terms refused, one step per operation with the expected outputs of the spec's vectors (`95_test_vectors.md`: EV, VV, DV, P), and, for each statement with hypotheses, a concrete witness that meets them. No expected value is the model's own answer. -/

namespace Sys2Proof.Tests

open Sys2Proof.Machine

/-! ### WellFormed: what each check refuses -/

theorem test_wordWf_widest_ein : wordWf .encoder 0x3FFFFFF = true := by decide
theorem test_wordWf_refuses_bit_26 : wordWf .encoder 0x4000000 = false := by decide
theorem test_wordWf_widest_gin : wordWf .validator 0x3FFFFFFFF = true := by decide
theorem test_wordWf_refuses_bit_34_of_val : wordWf .validator 0x400000000 = false := by decide
theorem test_wordWf_refuses_bit_34_of_dec : wordWf .decoder 0x400000000 = false := by decide
theorem test_decodeWord_refuses_by_name : (decodeWord .encoder 0x4000000).toOption = none := by decide
/-- R146 item 2: `ENC0` is never part of a stream, and `ENC1` and `ENC2` only end one. -/
theorem test_encodeStreamWf_refuses_enc0 : encodeStreamWf [.enc0 0 0 0] = false := by decide
theorem test_encodeStreamWf_refuses_enc1_middle : encodeStreamWf [.enc1 0 0 0, .enc3 0 0 0] = false := by decide
theorem test_encodeStreamWf_refuses_other_unit : encodeStreamWf [.decMid 0 0 0 0, .enc3 0 0 0] = false := by decide
/-- R146 items 3 and 4: the final group alone is `.LAST` or `.SHORT`, the latter with `last = 1`. -/
theorem test_checkStreamWf_refuses_last_middle : checkStreamWf .decoder [.decLast 0 0 0 0, .decLast 0 0 0 0] = false := by decide
theorem test_checkStreamWf_refuses_mid_final : checkStreamWf .validator [.valMid 0 0 0 0] = false := by decide
theorem test_checkStreamWf_refuses_short_without_last : checkStreamWf .decoder [.decShort false 0 0 0 0] = false := by decide
theorem test_checkStreamWf_refuses_other_unit : checkStreamWf .validator [.decLast 0 0 0 0] = false := by decide

/-! ### Decoding: words written out from R55, R57, R60, lane by lane -/

theorem test_decode_enc0 : decode (.e (0b00#2 ++ 0x4D#8 ++ 0x61#8 ++ 0x6E#8)) = .enc0 0x4D 0x61 0x6E := by decide
theorem test_decode_enc1 : decode (.e (0b01#2 ++ 0xFF#8 ++ 0xAA#8 ++ 0x55#8)) = .enc1 0xFF 0xAA 0x55 := by decide
theorem test_decode_enc2 : decode (.e (0b10#2 ++ 0x00#8 ++ 0x0F#8 ++ 0x5A#8)) = .enc2 0x00 0x0F 0x5A := by decide
theorem test_decode_enc3 : decode (.e (0b11#2 ++ 0xFB#8 ++ 0xFF#8 ++ 0xBF#8)) = .enc3 0xFB 0xFF 0xBF := by decide
theorem test_decode_valMid : decode (.v (0b10#2 ++ 0x41#8 ++ 0x0A#8 ++ 0x42#8 ++ 0x43#8)) = .valMid 0x41 0x0A 0x42 0x43 := by decide
theorem test_decode_valLast : decode (.v (0b11#2 ++ 0x24#8 ++ 0x3D#8 ++ 0x3D#8 ++ 0x41#8)) = .valLast 0x24 0x3D 0x3D 0x41 := by decide
theorem test_decode_valShort : decode (.v (0b01#2 ++ 0x54#8 ++ 0x51#8 ++ 0x3D#8 ++ 0x2D#8)) = .valShort true 0x54 0x51 0x3D 0x2D := by decide
theorem test_decode_decMid : decode (.d (0b10#2 ++ 0x5A#8 ++ 0x47#8 ++ 0x56#8 ++ 0x6D#8)) = .decMid 0x5A 0x47 0x56 0x6D := by decide
theorem test_decode_decLast : decode (.d (0b11#2 ++ 0x2F#8 ++ 0x2F#8 ++ 0x2F#8 ++ 0x3D#8)) = .decLast 0x2F 0x2F 0x2F 0x3D := by decide
theorem test_decode_decShort : decode (.d (0b00#2 ++ 0x54#8 ++ 0x51#8 ++ 0x3D#8 ++ 0x3D#8)) = .decShort false 0x54 0x51 0x3D 0x3D := by decide

/-- The opcode table's own numbers, through the host's entry point: a row of E, and a row of 34 bits, read as unit V's (log entry 4). -/
theorem test_decodeTableWord_enc2 : decodeTableWord 32 0x2000000 = some (.enc2 0 0 0) := by decide
theorem test_decodeTableWord_val : decodeTableWord 40 0x300000000 = some (.valLast 0 0 0 0) := by decide
theorem test_decodeTableWord_refuses : decodeTableWord 40 0x400000000 = none := by decide

/-- No two rows of one unit overlap where both masks look (R60: there is no unassigned and no doubly assigned pattern). -/
theorem test_rows_do_not_overlap :
    opTable.Pairwise (fun a b => a.unit ≠ b.unit ∨ a.pattern &&& (a.mask &&& b.mask) ≠ b.pattern &&& (a.mask &&& b.mask)) := by
  decide

/-! ### One step per operation, on bundles of the spec's vectors -/

/-- Unit E's output bundle after one step on an `EIN` value. -/
def eoutOf (x : BitVec 26) : Option (BitVec 35) :=
  match step (State.reset.present (.e x)) with
  | .next t => some t.encOut.eout
  | .fault _ => none
  | .refused _ => none

/-- Unit V's output bundle after one step on a `GIN` value. -/
def voutOf (x : BitVec 34) : Option (BitVec 6) :=
  match step (State.reset.present (.v x)) with
  | .next t => some t.valOut.vout
  | .fault _ => none
  | .refused _ => none

/-- Unit D's output bundle after one step on a `GIN` value. -/
def doutOf (x : BitVec 34) : Option (BitVec 32) :=
  match step (State.reset.present (.d x)) with
  | .next t => some t.decOut.dout
  | .fault _ => none
  | .refused _ => none

/-- EV26. -/
theorem test_enc0_ignores_lanes : eoutOf 0x04D616E = some 0x000000000 := by decide
/-- EV21. -/
theorem test_enc1_masks_lanes : eoutOf 0x1FFAA55 = some 0x42F773D3D := by decide
/-- EV25. -/
theorem test_enc1_low_bits : eoutOf 0x1030000 = some 0x441773D3D := by decide
/-- EV16. -/
theorem test_enc2_masks_lane_2 : eoutOf 0x2FFFFFF = some 0x42F2F383D := by decide
/-- EV18. -/
theorem test_enc2_low_bits : eoutOf 0x2000F00 = some 0x44141383D := by decide
/-- EV11: bits beside each byte boundary. -/
theorem test_enc3_byte_boundaries : eoutOf 0x3010080 = some 0x441514341 := by decide
/-- EV12: bits beside each field boundary. -/
theorem test_enc3_field_boundaries : eoutOf 0x303F03F = some 0x4412F412F := by decide
/-- VV6. -/
theorem test_valMid_both_causes : voutOf 0x2413D2441 = some 0x34 := by decide
/-- VV9. -/
theorem test_valMid_symbols : voutOf 0x22B2F3039 = some 0x00 := by decide
/-- VV32: a space after a pad. -/
theorem test_valLast_space : voutOf 0x354513D20 = some 0x34 := by decide
/-- VV29: discarded bits are not looked at. -/
theorem test_valLast_discarded_bits : voutOf 0x354523D3D = some 0x02 := by decide
/-- VV36. -/
theorem test_valShort_ignores_last : voutOf 0x154513D2D = some 0x28 := by decide
/-- DV7. -/
theorem test_decMid_plus_slash : doutOf 0x22B2F2B2F = some 0x03FBFFBF := by decide
/-- DV24. -/
theorem test_decMid_pad : doutOf 0x25457453D = some 0xC0000000 := by decide
/-- DV17: the dropped lane shows 00. -/
theorem test_decLast_dropped_lane : doutOf 0x32F2F2F3D = some 0x06FFFF00 := by decide
/-- DV20. -/
theorem test_decLast_discarded_bits : doutOf 0x354663D3D = some 0x094D0000 := by decide
/-- DV37. -/
theorem test_decShort : doutOf 0x154574675 = some 0xA0000000 := by decide

/-! ### Streams (source vectors S2, S6; TV6, XV16, XV17) -/

theorem test_encode_two_groups :
    encodeStream 0xAA 0x55 [0x4D, 0x61, 0x6E, 0x79, 0x20] State.reset =
      .next [0x54, 0x57, 0x46, 0x75, 0x65, 0x53, 0x41, 0x3D] := by rfl

theorem test_decode_pad_in_middle :
    decodeStream 0 0 0 [0x54, 0x51, 0x3D, 0x3D, 0x54, 0x57, 0x46, 0x75] State.reset = .next (.error .raised) := by rfl

theorem test_decode_short_tail :
    decodeStream 0x41 0x41 0x41 [0x54, 0x57, 0x46, 0x75, 0x54, 0x51, 0x3D] State.reset = .next (.error .raised) := by rfl

/-- The source's own vectors, through the source's whole-sequence form. -/
theorem test_sourceEncode_two_bytes : sourceEncode [0x4D, 0x61] = [0x54, 0x57, 0x45, 0x3D] := by decide
theorem test_sourceDecode_misplaced_pad : sourceValid [0x41, 0x3D, 0x41, 0x41] = false := by decide

/-- I1: the inverted bytes of "tes" are `8B 9A 8C`. -/
theorem test_invert : invert [0x74, 0x65, 0x73] = [0x8B, 0x9A, 0x8C] := by decide

/-! ### Outputs follow inputs -/

/-- V's status outputs are not sticky: `VAL.LAST "TQ=="` presented (VV28), then a bundle of unit E presented and stepped; V still shows its verdict on `"TQ=="`, not the one on its inputs at reset (R17). -/
theorem test_status_follows_inputs :
    ∃ t, step ((State.reset.present (.v 0x354513D3D)).present (.e 0x34D616E)) = .next t ∧
      t.valOut.vout = 0x02 ∧ t.encOut.eout = 0x454574675 := ⟨_, rfl, by decide, by decide⟩

/-- Program P4, `ENC2 FF FE 77` with `dec_last_i = 1` and with `dec_last_i = 0`. -/
theorem test_unit_d_wired_to_e :
    (State.reset.presentThroughD 0x2FFFE77 true true).decOut.dout = 0x06FFFE00 ∧
      (State.reset.presentThroughD 0x2FFFE77 true false).decOut.dout = 0xC0000000 := by decide

/-- The same wires to unit V: D's verdict is V's (R121), so `DOUT[31:26]` of P4's rows. -/
theorem test_unit_v_wired_to_e :
    (State.reset.presentThroughV 0x2FFFE77 true true).valOut.vout = 0x01 ∧
      (State.reset.presentThroughV 0x2FFFE77 true false).valOut.vout = 0x30 := by decide

/-! ### Witnesses: the hypotheses of the statements are met -/

/-- A state no run from reset needs: all three units settled on data of the vectors (EV16, VV30, DV17). -/
def busy : State where
  sel := .decoder
  encIn := ⟨2, 0xFF, 0xFF, 0xFF⟩
  encOut := ⟨4, 0x2F, 0x2F, 0x38, 0x3D⟩
  valIn := ⟨true, true, 0x54, 0x24, 0x3D, 0x3D⟩
  valOut := ⟨true, 0b001, 0⟩
  decIn := ⟨true, true, 0x2F, 0x2F, 0x2F, 0x3D⟩
  decOut := ⟨false, 0b000, 1, 2, 0xFF, 0xFF, 0x00⟩

/-- Enc3DrivesFourSymbols, its injectivity clause, on equal outputs. -/
theorem witness_enc3_injective :
    ∃ t t', exec (.enc3 0x4D 0x61 0x6E) busy = .next t ∧ exec (.enc3 0x4D 0x61 0x6E) State.reset = .next t' ∧
      t.encOut = t'.encOut := ⟨_, _, rfl, rfl, rfl⟩

/-- CauseBitsOfValidator and PadOutputOfValidator: an operation of unit V with each value of `full`. -/
theorem witness_validator_operation :
    (Instr.valLast 0x41 0x41 0x3D 0x3D).unit = .validator ∧ (Instr.valShort true 0 0 0 0).unit = .validator ∧
      (∃ t, exec (.valLast 0x41 0x41 0x3D 0x3D) busy = .next t ∧ t.valIn.full = true) ∧
      (∃ t, exec (.valShort true 0 0 0 0) busy = .next t ∧ t.valIn.full = false) :=
  ⟨rfl, rfl, ⟨_, rfl, rfl⟩, ⟨_, rfl, rfl⟩⟩

/-- PadOutputOfValidator: groups on which the pad output is 1 and 2 (VV27, VV28). -/
theorem witness_pad_output_one : voutOf 0x35457453D = some 0x01 := by decide
theorem witness_pad_output_two : voutOf 0x354513D3D = some 0x02 := by decide

/-- NoBytesOnError: an operation of unit D, with the error. -/
theorem witness_decoder_error :
    (Instr.decMid 0x54 0x51 0x3D 0x3D).unit = .decoder ∧
      ∃ t, exec (.decMid 0x54 0x51 0x3D 0x3D) busy = .next t ∧ t.decOut.err = true := ⟨rfl, _, rfl, by decide⟩

/-- WhichOperationsRaise, its last clause: an operation of unit E. -/
theorem witness_encoder_operation : (Instr.enc0 0 0 0).unit = .encoder := rfl

/-- DecLastBytes, its second clause: a group with no pad. -/
theorem witness_decLast_no_pad :
    ∃ t, exec (.decLast 0x54 0x57 0x46 0x75) busy = .next t ∧ t.decOut.err = false ∧ t.decOut.pad = 0 :=
  ⟨_, rfl, by decide, by decide⟩

/-- DiscardedBitsAreFree: both sides of its equivalences occur (DV20, DV15). -/
theorem witness_discarded_bits :
    (∃ t, exec (.decLast 0x54 0x66 0x3D 0x3D) busy = .next t ∧ t.decOut = ⟨false, 0b000, 2, 1, 0x4D, 0x00, 0x00⟩) ∧
      (∃ t, exec (.decLast 0x54 0x57 0x48 0x3D) busy = .next t ∧ t.decOut = ⟨false, 0b000, 1, 2, 0x4D, 0x61, 0x00⟩) :=
  ⟨⟨_, rfl, by decide⟩, ⟨_, rfl, by decide⟩⟩

/-- FlagDiscipline: a padded final group, and a group valid as non-final. -/
theorem witness_flag_discipline :
    (∃ f, exec (.valLast 0x54 0x57 0x45 0x3D) busy = .next f ∧ f.valOut.err = false ∧ f.valOut.pad ≠ 0) ∧
      (∃ f, exec (.decLast 0x54 0x57 0x45 0x3D) busy = .next f ∧ f.decOut.err = false ∧ f.decOut.pad ≠ 0) ∧
      (∃ m, exec (.valMid 0x54 0x57 0x46 0x75) busy = .next m ∧ m.valOut.err = false) ∧
      (∃ m, exec (.decMid 0x54 0x57 0x46 0x75) busy = .next m ∧ m.decOut.err = false) :=
  ⟨⟨_, rfl, by decide, by decide⟩, ⟨_, rfl, by decide, by decide⟩, ⟨_, rfl, by decide⟩, ⟨_, rfl, by decide⟩⟩

/-- StepRunsDecodedOperation, its last clause: a table word the decoder reads. -/
theorem witness_table_word : decodeTableWord 32 0x34D616E = some (.enc3 0x4D 0x61 0x6E) := by decide

/-- SettledIsKept: a settled state in which the step and an evaluation answer next states. -/
theorem witness_settled :
    busy.Settled ∧ (∃ t, step busy = .next t) ∧ (∃ t, evaluate (.enc3 0x4D 0x61 0x6E) busy = .next t) ∧
      (∃ t, exec (.decShort true 0 0 0 0) busy = .next t) :=
  ⟨by decide, ⟨_, rfl⟩, ⟨_, rfl⟩, ⟨_, rfl⟩⟩

/-- OutputsFollowInputs, its first clause: the selected unit carries what the rules give. -/
theorem witness_unit_settled : busy.UnitSettled busy.sel := by
  show busy.decOut = decUnit busy.decIn
  decide

/-- PortsStayLegal: a state with legal ports in which the step and an evaluation answer next states. -/
theorem witness_ports_legal :
    busy.PortsLegal ∧ (∃ t, step busy = .next t) ∧ (∃ t, evaluate (.valLast 0x54 0x24 0x3D 0x3D) busy = .next t) := by
  refine ⟨⟨?_, ?_, ?_, ?_⟩, ⟨_, rfl⟩, ⟨_, rfl⟩⟩ <;> constructor <;> decide

/-- StrayBitsAreRefused: both sides of the bound, for each unit. -/
theorem witness_stray_bits :
    2 ^ Config.bundleWidth .encoder ≤ 0x4000000 ∧ 0x3FFFFFF < 2 ^ Config.bundleWidth .encoder ∧
      2 ^ Config.bundleWidth .validator ≤ 0x400000000 ∧ 0x3FFFFFFFF < 2 ^ Config.bundleWidth .validator ∧
      2 ^ Config.bundleWidth .decoder ≤ 0x400000000 ∧ 0x3FFFFFFFF < 2 ^ Config.bundleWidth .decoder := by decide

/-- AlphabetByRanges: the first and last index of each range, from R50's table. -/
theorem witness_alphabet_ranges :
    symToChar 0 = 0x41 ∧ symToChar 25 = 0x5A ∧ symToChar 26 = 0x61 ∧ symToChar 51 = 0x7A ∧ symToChar 52 = 0x30 ∧
      symToChar 61 = 0x39 ∧ symToChar 62 = 0x2B ∧ symToChar 63 = 0x2F := by decide

/-- ClassInvertsAlphabet: a `BAD` code at each end of each named range (CV). -/
theorem witness_bad_ranges :
    [0x00, 0x2A, 0x2C, 0x2E, 0x3A, 0x3C, 0x3E, 0x40, 0x5B, 0x60, 0x7B, 0xFF].all
      (fun c => decide (classOf c = .bad)) = true := by decide

/-- EncodeOpsFollowContract: a group of each kind in range, the last at the boundary of its length (TV3, TV4, TV5). -/
theorem witness_encode_groups :
    3 * 0 + 2 < [0x4D#8, 0x61, 0x6E, 0x79].length ∧ 3 * 1 < [0x4D#8, 0x61, 0x6E, 0x79].length ∧
      ¬ 3 * 1 + 1 < [0x4D#8, 0x61, 0x6E, 0x79].length ∧ 3 * 0 + 1 < [0x4D#8, 0x61].length := by decide

/-- DecodeOpsFollowContract: a middle group, a full last group and a short last group (XV5, XV17). -/
theorem witness_decode_groups :
    4 * 0 + 4 < [0x54#8, 0x57, 0x46, 0x75, 0x54, 0x51, 0x3D].length ∧
      ¬ 4 * 1 + 3 < [0x54#8, 0x57, 0x46, 0x75, 0x54, 0x51, 0x3D].length ∧
      4 * 1 < [0x54#8, 0x57, 0x46, 0x75, 0x54, 0x51, 0x3D].length ∧
      4 * 0 + 3 < [0x54#8, 0x57, 0x46, 0x75].length ∧ ¬ 4 * 0 + 4 < [0x54#8, 0x57, 0x46, 0x75].length := by decide

/-- StreamLengths and ReencodingOfDecoded: a string that DECODE accepts (XV3), and one whose discarded bits are not zero (XV14). -/
theorem witness_decoded_string :
    decodeStream 0 0 0 [0x54, 0x57, 0x45, 0x3D] busy = .next (.ok [0x4D, 0x61]) ∧
      decodeStream 0 0 0 [0x54, 0x57, 0x46, 0x3D] busy = .next (.ok [0x4D, 0x61]) := ⟨rfl, rfl⟩

/-- DecodeRejects: a length that is no multiple of 4 (XV20), and a string with a character outside the alphabet (XV24). -/
theorem witness_rejected_strings :
    [0x54#8, 0x51, 0x3D].length % 4 ≠ 0 ∧ (0x2D#8 ∈ [0x54#8, 0x57, 0x2D, 0x5F] ∧ classOf 0x2D = .bad) := by decide

/-- DecodeRejects, misplaced padding: a pad before another character, and three pads (VAL.LAST's corner `"A==="`). -/
theorem witness_misplaced_padding :
    (0x3D#8 ∈ [0x41#8, 0x3D] ∧ (0x41#8 : Byte) ≠ 0x3D#8) ∧ 2 < [0x41#8, 0x3D, 0x3D, 0x3D].count 0x3D#8 := by decide

/-- InvertIsInvolution: an index in range. -/
theorem witness_invert_index : 0 < [0x74#8].length := by decide

/-- The converter whose texts are the byte sequences themselves has the law of R158. -/
def rawText : TextConverter (List Byte) := ⟨fun t => t, fun b => some b, fun _ => rfl⟩

/-- ObfuscationRoundTrip: a converter, and a text it makes the empty byte sequence. -/
theorem witness_converter : rawText.textToBytes [] = [] := rfl

/-- DeobfuscationPassesErrorOn: a string on which both fail. -/
theorem witness_deobfuscation_error :
    decodeStream 0 0 0 [0x54] busy = .next (.error .raised) ∧
      deobfuscate rawText 0 0 0 [0x54] busy = .next (.error .raised) := ⟨rfl, rfl⟩

end Sys2Proof.Tests
end

section
/-! PROOFS. A step as one unit function (R6): the operations' meanings agree with the units written port by port, so evaluating the operation that a bundle selects drives the bundle's unit and nothing else. -/

namespace Sys2Proof.Machine

/-! ### Unit V's function against the verdicts (R101 to R105) -/

/-- The status outputs for three conditions, port by port: a pad count is reported only where none holds (R101, R105). -/
theorem verdict_causeBits (char len pad : Bool) (p : BitVec 2) :
    verdict (causeBits char len pad) p =
      { err := char || len || pad, cause := causeBits char len pad, pad := if char || len || pad then 0 else p } := by
  obtain ⟨hchar, hlen, hpad⟩ := causeBits_getLsbD char len pad
  rw [verdict, hchar, hlen, hpad]
  cases char || len || pad <;> rfl

/-- On a full group that is not final unit V answers the verdict of R102. -/
theorem valUnit_mid (c0 c1 c2 c3 : Byte) : valUnit ⟨true, false, c0, c1, c2, c3⟩ = verdictMid c0 c1 c2 c3 := by
  simp [verdictMid, verdict_causeBits, valUnit, charCause, lenCause, padCause]

/-- On a full final group unit V answers the verdict of R103. The two pad counts differ only at a pad followed by no pad, which is an error. -/
theorem valUnit_last (c0 c1 c2 c3 : Byte) : valUnit ⟨true, true, c0, c1, c2, c3⟩ = verdictLast c0 c1 c2 c3 := by
  have count : (lanePad c2 && !lanePad c3) = false →
      padCount c2 c3 = if lanePad c2 then 2 else if lanePad c3 then 1 else 0 := by
    unfold padCount
    cases lanePad c2 <;> cases lanePad c3 <;> decide
  simp only [verdictLast, verdict_causeBits, padOk_eq, valUnit, charCause, lenCause, padCause]
  cases hm : lanePad c2 && !lanePad c3 with
  | true => simp
  | false =>
    simp only [count hm, Bool.true_and, Bool.not_true, Bool.not_not, Bool.or_false, Bool.and_true, if_true]
    cases anyBad c0 c1 c2 c3 || (lanePad c0 || lanePad c1) <;> rfl

/-- On a short group unit V answers the verdict of R104. -/
theorem valUnit_short (last : Bool) (c0 c1 c2 c3 : Byte) : valUnit ⟨false, last, c0, c1, c2, c3⟩ = verdictShort := by
  simp [verdictShort, verdict_causeBits, valUnit, charCause, lenCause, padCause]

theorem valUnit_pad_of_err {g : GroupIn} (h : (valUnit g).err = true) : (valUnit g).pad = 0 := by
  simp only [valUnit] at h ⊢
  simp [h]

/-- The pad output of unit V is never 3 (R105). -/
theorem valUnit_pad_cases (g : GroupIn) : (valUnit g).pad = 0 ∨ (valUnit g).pad = 1 ∨ (valUnit g).pad = 2 := by
  simp only [valUnit]
  repeat' split
  all_goals decide

/-! ### Unit D's function against the gate (R121 to R126) -/

/-- Unit D is V's verdict on the same inputs gating the datapath (R121), with the dropped lanes of R126. -/
theorem decUnit_eq_gate (g : GroupIn) :
    decUnit g = gate (valUnit g) (3 - (valUnit g).pad) (byte0 (decCore g.c0 g.c1 g.c2 g.c3))
      (if (valUnit g).pad ≤ 1 then byte1 (decCore g.c0 g.c1 g.c2 g.c3) else 0x00)
      (if (valUnit g).pad = 0 then byte2 (decCore g.c0 g.c1 g.c2 g.c3) else 0x00) := by
  cases herr : (valUnit g).err with
  | true =>
    rw [gate_of_err herr, raiseInvalidD_eq]
    simp [decUnit, herr, valUnit_pad_of_err herr]
  | false =>
    rw [gate_of_ok herr]
    obtain hp | hp | hp := valUnit_pad_cases g <;> simp [decUnit, herr, hp]

/-! ### Each operation drives its unit -/

theorem exec_enc0 (b0 b1 b2 : Byte) (s : State) : exec (.enc0 b0 b1 b2) s = .next (s.driveE ⟨0, b0, b1, b2⟩) := rfl

theorem exec_enc1 (b0 b1 b2 : Byte) (s : State) : exec (.enc1 b0 b1 b2) s = .next (s.driveE ⟨1, b0, b1, b2⟩) := rfl

theorem exec_enc2 (b0 b1 b2 : Byte) (s : State) : exec (.enc2 b0 b1 b2) s = .next (s.driveE ⟨2, b0, b1, b2⟩) := rfl

theorem exec_enc3 (b0 b1 b2 : Byte) (s : State) : exec (.enc3 b0 b1 b2) s = .next (s.driveE ⟨3, b0, b1, b2⟩) := rfl

theorem exec_valMid (c0 c1 c2 c3 : Byte) (s : State) :
    exec (.valMid c0 c1 c2 c3) s = .next (s.driveV ⟨true, false, c0, c1, c2, c3⟩) := by
  rw [State.driveV, valUnit_mid]; rfl

theorem exec_valLast (c0 c1 c2 c3 : Byte) (s : State) :
    exec (.valLast c0 c1 c2 c3) s = .next (s.driveV ⟨true, true, c0, c1, c2, c3⟩) := by
  rw [State.driveV, valUnit_last]; rfl

theorem exec_valShort (last : Bool) (c0 c1 c2 c3 : Byte) (s : State) :
    exec (.valShort last c0 c1 c2 c3) s = .next (s.driveV ⟨false, last, c0, c1, c2, c3⟩) := by
  rw [State.driveV, valUnit_short]; rfl

theorem exec_decMid (c0 c1 c2 c3 : Byte) (s : State) :
    exec (.decMid c0 c1 c2 c3) s = .next (s.driveD ⟨true, false, c0, c1, c2, c3⟩) := by
  have hp : (verdictMid c0 c1 c2 c3).pad = 0 := by simp [verdictMid, verdict_causeBits]
  rw [State.driveD, decUnit_eq_gate, valUnit_mid, hp]; rfl

theorem exec_decLast (c0 c1 c2 c3 : Byte) (s : State) :
    exec (.decLast c0 c1 c2 c3) s = .next (s.driveD ⟨true, true, c0, c1, c2, c3⟩) := by
  rw [State.driveD, decUnit_eq_gate, valUnit_last]; rfl

theorem exec_decShort (last : Bool) (c0 c1 c2 c3 : Byte) (s : State) :
    exec (.decShort last c0 c1 c2 c3) s = .next (s.driveD ⟨false, last, c0, c1, c2, c3⟩) := by
  rw [State.driveD, decUnit_eq_gate, valUnit_short]; rfl

/-! ### The operation a bundle selects -/

/-- Evaluating the operation that a value of `EIN` selects drives unit E with it. -/
theorem exec_decodeEin (x : BitVec 26) (s : State) : exec (decodeEin x) s = .next (s.present (.e x)) := by
  have hlen : ∀ l : BitVec 2, l ≠ 0 → l ≠ 1 → l ≠ 2 → l = 3 := by decide
  simp only [decodeEin, State.present, EncIn.ofEin]
  split
  next h => rw [exec_enc0, h]; rfl
  next h0 =>
    split
    next h => rw [exec_enc1, h]; rfl
    next h1 =>
      split
      next h => rw [exec_enc2, h]; rfl
      next h2 => rw [exec_enc3, hlen _ h0 h1 h2]

/-- Evaluating the operation that a value of `GIN` selects in unit V drives unit V with it. -/
theorem exec_decodeValGin (x : BitVec 34) (s : State) : exec (decodeValGin x) s = .next (s.present (.v x)) := by
  simp only [decodeValGin, State.present, GroupIn.ofGin]
  cases x.getLsbD 33 with
  | false => exact exec_valShort ..
  | true =>
    cases x.getLsbD 32 with
    | false => exact exec_valMid ..
    | true => exact exec_valLast ..

/-- Evaluating the operation that a value of `GIN` selects in unit D drives unit D with it. -/
theorem exec_decodeDecGin (x : BitVec 34) (s : State) : exec (decodeDecGin x) s = .next (s.present (.d x)) := by
  simp only [decodeDecGin, State.present, GroupIn.ofGin]
  cases x.getLsbD 33 with
  | false => exact exec_decShort ..
  | true =>
    cases x.getLsbD 32 with
    | false => exact exec_decMid ..
    | true => exact exec_decLast ..

/-- Evaluating the operation that a bundle selects leaves the ports as presenting the bundle does (R10, R20). -/
theorem exec_decode (b : Bundle) (s : State) : exec (decode b) s = .next (s.present b) := by
  cases b with
  | e x => exact exec_decodeEin x s
  | v x => exact exec_decodeValGin x s
  | d x => exact exec_decodeDecGin x s

/-! ### The step -/

/-- A step is a presentation of what already stands on the ports of the unit at hand. -/
theorem step_eq_present_fetch (s : State) : step s = .next (s.present s.fetch) := exec_decode s.fetch s

/-- Settles O25: the unit at hand is driven with the levels already on its input ports, so only its outputs are written. -/
theorem stepIsUnitFunction : Obligations.StepIsUnitFunction := by
  unfold Obligations.StepIsUnitFunction
  intro s
  rw [step_eq_present_fetch]
  obtain ⟨sel, encIn, encOut, valIn, valOut, decIn, decOut⟩ := s
  cases sel <;>
    simp only [State.fetch, State.present, EncIn.ofEin_ein, GroupIn.ofGin_gin, State.driveE, State.driveV,
      State.driveD, State.putE, State.putV, State.putD]

end Sys2Proof.Machine
end

section
/-! PROOFS. The encodings (R52, R55 to R62): where the fields of a bundle stand, the 24-bit value as a concatenation, the alphabet without repetition, and the one row of the operation map in which a bundle lies. -/

namespace Sys2Proof.Machine

/-! ### The 24-bit value (R61, R62) -/

/-- A slice is read off bit by bit. -/
theorem extractLsb'_eq_of_getLsbD {w n start : Nat} {x : BitVec w} {y : BitVec n}
    (h : ∀ i < n, x.getLsbD (start + i) = y.getLsbD i) : x.extractLsb' start n = y := by
  refine BitVec.eq_of_getLsbD_eq fun i hi => ?_
  rw [BitVec.getLsbD_extractLsb', h i hi, decide_eq_true hi, Bool.true_and]

/-- The packing of unit E is concatenation: the shifted lanes do not overlap (R61). -/
theorem pack3_eq_append (e0 e1 e2 : Byte) : pack3 e0 e1 e2 = e0 ++ e1 ++ e2 := by
  refine BitVec.eq_of_getLsbD_eq fun i hi => ?_
  rw [getLsbD_join_bytes]
  interval_cases i <;> simp [pack3]

/-- The packing of unit D is concatenation: the shifted lanes do not overlap (R62). -/
theorem pack4_eq_append (i0 i1 i2 i3 : Sym) : pack4 i0 i1 i2 i3 = i0 ++ i1 ++ i2 ++ i3 := by
  refine BitVec.eq_of_getLsbD_eq fun i hi => ?_
  rw [getLsbD_join_syms]
  interval_cases i <;> simp [pack4]

/-- The bits of the value unit E packs, by lane (R61). -/
theorem pack3_getLsbD (e0 e1 e2 : Byte) (i : Nat) :
    (pack3 e0 e1 e2).getLsbD i =
      if i < 8 then e2.getLsbD i else if i < 16 then e1.getLsbD (i - 8) else e0.getLsbD (i - 16) := by
  rw [pack3_eq_append, getLsbD_join_bytes]

/-- The bits of the value unit D packs, by lane (R62). -/
theorem pack4_getLsbD (i0 i1 i2 i3 : Sym) (i : Nat) :
    (pack4 i0 i1 i2 i3).getLsbD i =
      if i < 6 then i3.getLsbD i else if i < 12 then i2.getLsbD (i - 6)
      else if i < 18 then i1.getLsbD (i - 12) else i0.getLsbD (i - 18) := by
  rw [pack4_eq_append, getLsbD_join_syms]

theorem field0_pack3 (e0 e1 e2 : Byte) : field0 (pack3 e0 e1 e2) = e0.extractLsb' 2 6 := by
  refine extractLsb'_eq_of_getLsbD fun i hi => ?_
  rw [pack3_getLsbD]
  interval_cases i <;> simp

theorem field1_pack3 (e0 e1 e2 : Byte) :
    field1 (pack3 e0 e1 e2) = e0.extractLsb' 0 2 ++ e1.extractLsb' 4 4 := by
  refine extractLsb'_eq_of_getLsbD fun i hi => ?_
  rw [pack3_getLsbD, getLsbD_join_2_4]
  interval_cases i <;> simp

theorem field2_pack3 (e0 e1 e2 : Byte) :
    field2 (pack3 e0 e1 e2) = e1.extractLsb' 0 4 ++ e2.extractLsb' 6 2 := by
  refine extractLsb'_eq_of_getLsbD fun i hi => ?_
  rw [pack3_getLsbD, getLsbD_join_4_2]
  interval_cases i <;> simp

theorem field3_pack3 (e0 e1 e2 : Byte) : field3 (pack3 e0 e1 e2) = e2.extractLsb' 0 6 := by
  refine extractLsb'_eq_of_getLsbD fun i hi => ?_
  rw [pack3_getLsbD]
  interval_cases i <;> simp

/-- Settles O41: every field lies within one lane, or at the seam of two. -/
theorem pack3Fields : Obligations.Pack3Fields := by
  unfold Obligations.Pack3Fields
  intro e0 e1 e2
  exact ⟨pack3_eq_append e0 e1 e2, field0_pack3 .., field1_pack3 .., field2_pack3 .., field3_pack3 ..⟩

/-- A 24-bit value is packed from its own four fields. -/
@[simp] theorem pack4_fields (v : Packed) : pack4 (field0 v) (field1 v) (field2 v) (field3 v) = v := by
  refine BitVec.eq_of_getLsbD_eq fun i hi => ?_
  rw [pack4_getLsbD]
  interval_cases i <;> simp [field0, field1, field2, field3]

theorem byte0_pack4 (i0 i1 i2 i3 : Sym) : byte0 (pack4 i0 i1 i2 i3) = i0 ++ i1.extractLsb' 4 2 := by
  refine extractLsb'_eq_of_getLsbD fun i hi => ?_
  rw [pack4_getLsbD, getLsbD_join_6_2]
  interval_cases i <;> simp

theorem byte1_pack4 (i0 i1 i2 i3 : Sym) :
    byte1 (pack4 i0 i1 i2 i3) = i1.extractLsb' 0 4 ++ i2.extractLsb' 2 4 := by
  refine extractLsb'_eq_of_getLsbD fun i hi => ?_
  rw [pack4_getLsbD, getLsbD_join_4_4]
  interval_cases i <;> simp

theorem byte2_pack4 (i0 i1 i2 i3 : Sym) : byte2 (pack4 i0 i1 i2 i3) = i2.extractLsb' 0 2 ++ i3 := by
  refine extractLsb'_eq_of_getLsbD fun i hi => ?_
  rw [pack4_getLsbD, getLsbD_join_2_6]
  interval_cases i <;> simp

@[simp] theorem byte0_pack3 (e0 e1 e2 : Byte) : byte0 (pack3 e0 e1 e2) = e0 := by
  refine extractLsb'_eq_of_getLsbD fun i hi => ?_
  rw [pack3_getLsbD, if_neg (by omega), if_neg (by omega), Nat.add_sub_cancel_left]

@[simp] theorem byte1_pack3 (e0 e1 e2 : Byte) : byte1 (pack3 e0 e1 e2) = e1 := by
  refine extractLsb'_eq_of_getLsbD fun i hi => ?_
  rw [pack3_getLsbD, if_neg (by omega), if_pos (by omega), Nat.add_sub_cancel_left]

@[simp] theorem byte2_pack3 (e0 e1 e2 : Byte) : byte2 (pack3 e0 e1 e2) = e2 := by
  refine extractLsb'_eq_of_getLsbD fun i hi => ?_
  rw [Nat.zero_add, pack3_getLsbD, if_pos hi]

/-- Settles O42: each byte is cut from one or two fields, and both packings are concatenations of the same 24 bits. -/
theorem pack4Bytes : Obligations.Pack4Bytes := by
  unfold Obligations.Pack4Bytes
  refine ⟨fun i0 i1 i2 i3 => ?_, fun e0 e1 e2 => ?_⟩
  · exact ⟨pack4_eq_append i0 i1 i2 i3, byte0_pack4 .., byte1_pack4 .., byte2_pack4 ..⟩
  · exact ⟨pack4_fields _, byte0_pack3 .., byte1_pack3 .., byte2_pack3 ..⟩

/-! ### The fields of a bundle (R55 to R59) -/

theorem einOf_lanes (len : BitVec 2) (b0 b1 b2 : Byte) :
    (einOf len b0 b1 b2).extractLsb' 24 2 = len ∧ (einOf len b0 b1 b2).extractLsb' 16 8 = b0 ∧
      (einOf len b0 b1 b2).extractLsb' 8 8 = b1 ∧ (einOf len b0 b1 b2).extractLsb' 0 8 = b2 := by
  simpa only [EncIn.ofEin, EncIn.ein, EncIn.mk.injEq] using EncIn.ofEin_ein ⟨len, b0, b1, b2⟩

/-- Below its length field, `EIN` is the packed value of the lanes (R55). -/
theorem einOf_low_eq_pack3 (len : BitVec 2) (b0 b1 b2 : Byte) :
    (einOf len b0 b1 b2).extractLsb' 0 24 = pack3 b0 b1 b2 := by
  refine extractLsb'_eq_of_getLsbD fun i hi => ?_
  rw [Nat.zero_add, einOf_getLsbD, pack3_getLsbD, if_pos hi]

theorem ginOf_lanes (full last : Bool) (c0 c1 c2 c3 : Byte) :
    (ginOf full last c0 c1 c2 c3).getLsbD 33 = full ∧ (ginOf full last c0 c1 c2 c3).getLsbD 32 = last ∧
      (ginOf full last c0 c1 c2 c3).extractLsb' 24 8 = c0 ∧ (ginOf full last c0 c1 c2 c3).extractLsb' 16 8 = c1 ∧
      (ginOf full last c0 c1 c2 c3).extractLsb' 8 8 = c2 ∧ (ginOf full last c0 c1 c2 c3).extractLsb' 0 8 = c3 := by
  simpa only [GroupIn.ofGin, GroupIn.gin, GroupIn.mk.injEq] using GroupIn.ofGin_gin ⟨full, last, c0, c1, c2, c3⟩

theorem EncOut.eout_fields (o : EncOut) :
    o.eout.extractLsb' 32 3 = o.nsym ∧ o.eout.extractLsb' 24 8 = o.s0 ∧ o.eout.extractLsb' 16 8 = o.s1 ∧
      o.eout.extractLsb' 8 8 = o.s2 ∧ o.eout.extractLsb' 0 8 = o.s3 := by
  refine ⟨?_, ?_, ?_, ?_, ?_⟩ <;> refine extractLsb'_eq_of_getLsbD fun i hi => ?_ <;>
    rw [EncOut.eout_getLsbD] <;>
    simp (disch := omega) only [if_pos, if_neg, Nat.zero_add, Nat.add_sub_cancel_left]

theorem ValOut.vout_fields (o : ValOut) :
    o.vout.getLsbD 5 = o.err ∧ o.vout.getLsbD 4 = o.cause.getLsbD 2 ∧ o.vout.getLsbD 3 = o.cause.getLsbD 1 ∧
      o.vout.getLsbD 2 = o.cause.getLsbD 0 ∧ o.vout.extractLsb' 0 2 = o.pad := by
  refine ⟨o.vout_getLsbD 5, o.vout_getLsbD 4, o.vout_getLsbD 3, o.vout_getLsbD 2,
    extractLsb'_eq_of_getLsbD fun i hi => ?_⟩
  rw [Nat.zero_add, ValOut.vout_getLsbD, if_pos hi]

theorem DecOut.dout_fields (o : DecOut) :
    o.dout.getLsbD 31 = o.err ∧ o.dout.extractLsb' 28 3 = o.cause ∧ o.dout.extractLsb' 26 2 = o.pad ∧
      o.dout.extractLsb' 24 2 = o.len ∧ o.dout.extractLsb' 16 8 = o.b0 ∧ o.dout.extractLsb' 8 8 = o.b1 ∧
      o.dout.extractLsb' 0 8 = o.b2 := by
  refine ⟨o.dout_getLsbD 31, ?_, ?_, ?_, ?_, ?_, ?_⟩ <;>
    refine extractLsb'_eq_of_getLsbD fun i hi => ?_ <;> rw [DecOut.dout_getLsbD] <;>
    simp (disch := omega) only [if_pos, if_neg, Nat.zero_add, Nat.add_sub_cancel_left]

/-- The top six bits of `DOUT` are a `VOUT` (R59). -/
theorem DecOut.dout_status (o : DecOut) : o.dout.extractLsb' 26 6 = ValOut.vout ⟨o.err, o.cause, o.pad⟩ := by
  refine extractLsb'_eq_of_getLsbD fun i hi => ?_
  rw [DecOut.dout_getLsbD, ValOut.vout_getLsbD]
  interval_cases i <;> rfl

/-- Settles O37, one bundle after another. -/
theorem bundleLayouts : Obligations.BundleLayouts := by
  unfold Obligations.BundleLayouts
  refine ⟨fun len b0 b1 b2 => ?_, EncOut.eout_fields, ginOf_lanes, ValOut.vout_fields, fun o => ?_⟩
  · obtain ⟨hlen, h0, h1, h2⟩ := einOf_lanes len b0 b1 b2
    exact ⟨hlen, h0, h1, h2, einOf_low_eq_pack3 len b0 b1 b2⟩
  · obtain ⟨herr, hcause, hpad, hlen, h0, h1, h2⟩ := o.dout_fields
    exact ⟨herr, hcause, hpad, hlen, h0, h1, h2, o.dout_status⟩

/-! ### The alphabet (R52) -/

/-- Settles O39: the class of a symbol's character gives the symbol back, and is never that of `=`. -/
theorem symbolCharactersDistinct : Obligations.SymbolCharactersDistinct := by
  unfold Obligations.SymbolCharactersDistinct
  refine ⟨fun i j h => ?_, fun i h => ?_⟩
  · simpa using congrArg classOf h
  · have hpad : classOf (symToChar i) = .pad := by rw [h]; exact classOf_padChar
    simp at hpad

/-! ### The operation map (R60) -/

theorem encode_decodeEin (x : BitVec 26) : encode (decodeEin x) = .e x := by
  have hlen : ∀ l : BitVec 2, l ≠ 0 → l ≠ 1 → l ≠ 2 → l = 3 := by decide
  suffices h : encode (decodeEin x) =
      .e (einOf (x.extractLsb' 24 2) (x.extractLsb' 16 8) (x.extractLsb' 8 8) (x.extractLsb' 0 8)) by
    rw [h, einOf_fields]
  unfold decodeEin
  split
  next h => rw [h]; rfl
  next h0 =>
    split
    next h => rw [h]; rfl
    next h1 =>
      split
      next h => rw [h]; rfl
      next h2 => rw [hlen _ h0 h1 h2]; rfl

theorem encode_decodeValGin (x : BitVec 34) : encode (decodeValGin x) = .v x := by
  suffices h : encode (decodeValGin x) =
      .v (ginOf (x.getLsbD 33) (x.getLsbD 32) (x.extractLsb' 24 8) (x.extractLsb' 16 8) (x.extractLsb' 8 8)
        (x.extractLsb' 0 8)) by
    rw [h, ginOf_fields]
  unfold decodeValGin
  cases x.getLsbD 33 <;> cases x.getLsbD 32 <;> rfl

theorem encode_decodeDecGin (x : BitVec 34) : encode (decodeDecGin x) = .d x := by
  suffices h : encode (decodeDecGin x) =
      .d (ginOf (x.getLsbD 33) (x.getLsbD 32) (x.extractLsb' 24 8) (x.extractLsb' 16 8) (x.extractLsb' 8 8)
        (x.extractLsb' 0 8)) by
    rw [h, ginOf_fields]
  unfold decodeDecGin
  cases x.getLsbD 33 <;> cases x.getLsbD 32 <;> rfl

/-- The bundle of the operation that a bundle selects is that bundle. -/
theorem encode_decode (b : Bundle) : encode (decode b) = b := by
  cases b with
  | e x => exact encode_decodeEin x
  | v x => exact encode_decodeValGin x
  | d x => exact encode_decodeDecGin x

/-- Every operation's bundle is of its unit and carries the selecting bits of its row, so R60's table is the encoder's. -/
theorem tablePattern_all (i : Instr) : Laws.TablePattern.Statement i := by
  cases i with
  | enc0 => exact Laws.TablePattern.enc0 ..
  | enc1 => exact Laws.TablePattern.enc1 ..
  | enc2 => exact Laws.TablePattern.enc2 ..
  | enc3 => exact Laws.TablePattern.enc3 ..
  | valMid => exact Laws.TablePattern.valMid ..
  | valLast => exact Laws.TablePattern.valLast ..
  | valShort => exact Laws.TablePattern.valShort ..
  | decMid => exact Laws.TablePattern.decMid ..
  | decLast => exact Laws.TablePattern.decLast ..
  | decShort => exact Laws.TablePattern.decShort ..

theorem OpRow.covers_iff (r : OpRow) (b : Bundle) :
    r.covers b = true ↔ b.unit = r.unit ∧ b.toNat &&& r.mask = r.pattern := by
  simp [OpRow.covers]

/-- A bundle lies in the row of the operation it decodes to. -/
theorem opRow_decode_covers (b : Bundle) : (opRow (decode b)).covers b = true := by
  obtain ⟨hbundle, hrow, hbits⟩ := tablePattern_all (decode b)
  rw [encode_decode] at hbundle hbits
  exact (OpRow.covers_iff _ _).mpr ⟨hbundle.trans hrow.symm, hbits⟩

theorem opRow_mem_opTable (i : Instr) : opRow i ∈ opTable := by
  cases i <;> simp [opTable, opRow]

/-- Two rows that a bundle lies in agree on the unit and on every bit that both look at. -/
theorem OpRow.agree_of_covers {r q : OpRow} {b : Bundle} (hr : r.covers b = true) (hq : q.covers b = true) :
    r.unit = q.unit ∧ r.pattern &&& q.mask = q.pattern &&& r.mask := by
  obtain ⟨hru, hrb⟩ := (OpRow.covers_iff r b).mp hr
  obtain ⟨hqu, hqb⟩ := (OpRow.covers_iff q b).mp hq
  refine ⟨hru.symm.trans hqu, ?_⟩
  rw [← hrb, ← hqb, Nat.and_right_comm]

/-- No two rows of the operation map share a bundle. -/
theorem opTable_rows_disjoint (b : Bundle) :
    opTable.Pairwise fun r q => ¬ (r.covers b = true ∧ q.covers b = true) := by
  have hdiffer : opTable.Pairwise fun r q => ¬ (r.unit = q.unit ∧ r.pattern &&& q.mask = q.pattern &&& r.mask) := by
    decide
  exact hdiffer.imp fun hrq ⟨hr, hq⟩ => hrq (OpRow.agree_of_covers hr hq)

/-- Where at most one element of a list passes a test, one that passes is all that a filter keeps. -/
theorem filter_eq_singleton {α : Type} {p : α → Bool} {l : List α} {a : α}
    (hdisjoint : l.Pairwise fun x y => ¬ (p x = true ∧ p y = true)) (ha : a ∈ l) (hp : p a = true) :
    l.filter p = [a] := by
  have hkept : a ∈ l.filter p := List.mem_filter.mpr ⟨ha, hp⟩
  have hpass : ∀ x ∈ l.filter p, p x = true := fun x hx => (List.mem_filter.mp hx).2
  have hpair := hdisjoint.filter p
  match hf : l.filter p with
  | [] => simp [hf] at hkept
  | [x] => simpa [hf, eq_comm] using hkept
  | x :: y :: rest =>
    rw [hf] at hpair hpass
    exact absurd ⟨hpass x (by simp), hpass y (by simp)⟩ (List.rel_of_pairwise_cons hpair (by simp))

/-- Settles O34: the row of the decoded operation covers the bundle, and no bundle lies in two rows. -/
theorem everyBundleSelectsOneOperation : Obligations.EveryBundleSelectsOneOperation := by
  unfold Obligations.EveryBundleSelectsOneOperation
  exact ⟨rfl, fun b =>
    filter_eq_singleton (opTable_rows_disjoint b) (opRow_mem_opTable _) (opRow_decode_covers b)⟩

end Sys2Proof.Machine
end

section
/-! PROOFS. Unit E's operations (R81, R82, R84): its outputs for each length as symbols of slices of its bytes, and why different groups of three bytes give different characters. -/

namespace Sys2Proof.Machine

/-! ### Symbols (R52) -/

theorem symToChar_injective : Function.Injective symToChar := fun _ _ => symbolCharactersDistinct.1 _ _

theorem symToChar_ne_padChar (i : Sym) : symToChar i ≠ Config.padChar := symbolCharactersDistinct.2 i

/-! ### The packed value is read back from its fields (R61, R62) -/

/-- Two packed values with the same four fields are the same. -/
theorem packed_eq_of_fields {v w : Packed} (h0 : field0 v = field0 w) (h1 : field1 v = field1 w)
    (h2 : field2 v = field2 w) (h3 : field3 v = field3 w) : v = w := by
  rw [← pack4_fields v, ← pack4_fields w, h0, h1, h2, h3]

theorem pack3_injective {b0 b1 b2 b0' b1' b2' : Byte} (h : pack3 b0 b1 b2 = pack3 b0' b1' b2') :
    b0 = b0' ∧ b1 = b1' ∧ b2 = b2' :=
  ⟨by simpa using congrArg byte0 h, by simpa using congrArg byte1 h, by simpa using congrArg byte2 h⟩

/-! ### Unit E's outputs, length by length (R80) -/

theorem encUnit_zero (b0 b1 b2 : Byte) : encUnit ⟨0, b0, b1, b2⟩ = ⟨0, 0x00, 0x00, 0x00, 0x00⟩ := rfl

/-- Of two bytes unit E drives the fields of the value with lane 2 masked, and `=` on its last lane (R82). -/
theorem encUnit_two (b0 b1 b2 : Byte) :
    encUnit ⟨2, b0, b1, b2⟩ =
      ⟨4, symToChar (field0 (pack3 b0 b1 0)), symToChar (field1 (pack3 b0 b1 0)),
        symToChar (field2 (pack3 b0 b1 0)), Config.padChar⟩ := rfl

/-- Of three bytes unit E drives the four fields of their packed value (R81). -/
theorem encUnit_three (b0 b1 b2 : Byte) :
    encUnit ⟨3, b0, b1, b2⟩ =
      ⟨4, symToChar (field0 (pack3 b0 b1 b2)), symToChar (field1 (pack3 b0 b1 b2)),
        symToChar (field2 (pack3 b0 b1 b2)), symToChar (field3 (pack3 b0 b1 b2))⟩ := rfl

/-- The four characters give the fields back, the fields the packed value, and that the bytes. -/
theorem encUnit_three_injective {b0 b1 b2 b0' b1' b2' : Byte}
    (h : encUnit ⟨3, b0, b1, b2⟩ = encUnit ⟨3, b0', b1', b2'⟩) : b0 = b0' ∧ b1 = b1' ∧ b2 = b2' := by
  simp only [encUnit_three, EncOut.mk.injEq, symToChar_injective.eq_iff, true_and] at h
  obtain ⟨h0, h1, h2, h3⟩ := h
  exact pack3_injective (packed_eq_of_fields h0 h1 h2 h3)

/-! ### The operations -/

/-- Settles O1: the fields are R61's slices, no symbol's character is `=`, and the packed value is read back from them. -/
theorem enc3DrivesFourSymbols : Obligations.Enc3DrivesFourSymbols := by
  unfold Obligations.Enc3DrivesFourSymbols
  refine ⟨fun b0 b1 b2 s => ?_, fun b0 b1 b2 s => ⟨_, exec_enc3 .., ?_⟩,
    fun b0 b1 b2 b0' b1' b2' s s' t t' h h' heq => ?_,
    fun s => ⟨_, exec_enc3 .., rfl⟩, fun s => ⟨_, exec_enc3 .., rfl⟩, fun s => ⟨_, exec_enc3 .., rfl⟩⟩
  · rw [exec_enc3, State.driveE, encUnit_three, field0_pack3, field1_pack3, field2_pack3, field3_pack3]; rfl
  · exact ⟨symToChar_ne_padChar _, symToChar_ne_padChar _, symToChar_ne_padChar _, symToChar_ne_padChar _⟩
  · rw [exec_enc3] at h h'
    cases h; cases h'
    exact encUnit_three_injective heq

/-- Settles O2: the masked lane leaves zeros in the third field, and nothing of itself. -/
theorem enc2DrivesThreeSymbolsAndPad : Obligations.Enc2DrivesThreeSymbolsAndPad := by
  unfold Obligations.Enc2DrivesThreeSymbolsAndPad
  refine ⟨fun b0 b1 b2 s => ?_,
    fun s => ⟨_, exec_enc2 .., rfl⟩, fun s => ⟨_, exec_enc2 .., rfl⟩,
    fun b2 s => ⟨_, exec_enc2 .., (encUnit_two 0x4D 0x61 b2).trans (by decide)⟩⟩
  rw [exec_enc2, State.driveE, encUnit_two, field0_pack3, field1_pack3, field2_pack3]; rfl

/-- Settles O4: no lane reaches the outputs, and the code of the filler is no character's. -/
theorem enc0DrivesNothing : Obligations.Enc0DrivesNothing := by
  unfold Obligations.Enc0DrivesNothing
  refine ⟨fun b0 b1 b2 s => ?_, by decide⟩
  rw [exec_enc0, State.driveE, encUnit_zero]; rfl

end Sys2Proof.Machine
end

section
/-! PROOFS. Unit V's operations (R102 to R104): the lane tests as the rules write them, and the verdict of each form of group, port by port. -/

namespace Sys2Proof.Machine

/-! ### Lane tests (R100) -/

/-- A lane holds a symbol exactly when it is neither `BAD` nor `PAD`. -/
theorem isSymbol_iff_lane (c : Byte) : IsSymbol c ↔ laneBad c = false ∧ lanePad c = false := by
  constructor
  · rintro ⟨i, hi⟩
    simp [laneBad, lanePad, hi]
  · rintro ⟨hb, hp⟩
    obtain ⟨i, rfl⟩ := exists_symToChar hb hp
    exact ⟨i, classOf_symToChar i⟩

theorem lanePad_eq_decide (c : Byte) : lanePad c = decide (c = 0x3D#8) :=
  Bool.eq_iff_iff.mpr ((lanePad_iff c).trans decide_eq_true_iff.symm)

theorem anyBad_eq_decide (c0 c1 c2 c3 : Byte) :
    anyBad c0 c1 c2 c3 = decide (classOf c0 = .bad ∨ classOf c1 = .bad ∨ classOf c2 = .bad ∨ classOf c3 = .bad) := by
  simp only [anyBad, laneBad, Bool.decide_or, Bool.or_assoc]

theorem anyPad_eq_decide (c0 c1 c2 c3 : Byte) :
    anyPad c0 c1 c2 c3 = decide (c0 = 0x3D#8 ∨ c1 = 0x3D#8 ∨ c2 = 0x3D#8 ∨ c3 = 0x3D#8) := by
  simp only [anyPad, lanePad_eq_decide, Bool.decide_or, Bool.or_assoc]

/-- The pad test of a final group on the characters themselves (R103). -/
theorem not_padOk_eq_decide (c0 c1 c2 c3 : Byte) :
    (!padOk c0 c1 c2 c3) = decide (c0 = 0x3D#8 ∨ c1 = 0x3D#8 ∨ (c2 = 0x3D#8 ∧ c3 ≠ 0x3D#8)) := by
  simp only [padOk_eq, lanePad_eq_decide, Bool.not_not, Bool.decide_or, Bool.decide_and, decide_not, ne_eq,
    Bool.or_assoc]

/-- The pad count is the number of `=` on lanes 2 and 3 (R103). -/
theorem padCount_eq (c2 c3 : Byte) :
    padCount c2 c3 = (if c2 = 0x3D#8 then 1 else 0) + (if c3 = 0x3D#8 then 1 else 0) := by
  have bit (c : Byte) : (BitVec.ofBool (lanePad c)).setWidth 2 = if c = 0x3D#8 then 1 else 0 := by
    rw [lanePad_eq_decide]
    split <;> simp [*]
  rw [padCount, bit, bit]

/-- No lane is `BAD` and none is `PAD` exactly when every lane holds a symbol (R102). -/
theorem anyBad_or_anyPad_eq_false_iff (c0 c1 c2 c3 : Byte) :
    (anyBad c0 c1 c2 c3 || anyPad c0 c1 c2 c3) = false ↔
      IsSymbol c0 ∧ IsSymbol c1 ∧ IsSymbol c2 ∧ IsSymbol c3 := by
  simp only [isSymbol_iff_lane, anyBad, anyPad, Bool.or_eq_false_iff]
  tauto

/-! ### The verdicts, port by port -/

/-- On a full group that is not final no pad count is reported: the pad output is 0 in error and otherwise (R102). -/
theorem verdictMid_eq (c0 c1 c2 c3 : Byte) :
    verdictMid c0 c1 c2 c3 =
      ⟨anyBad c0 c1 c2 c3 || anyPad c0 c1 c2 c3, causeBits (anyBad c0 c1 c2 c3) false (anyPad c0 c1 c2 c3), 0⟩ := by
  rw [verdictMid, verdict_causeBits, Bool.or_false, ite_self]

/-- On a full final group the pad count is gated by the error (R103). -/
theorem verdictLast_eq (c0 c1 c2 c3 : Byte) :
    verdictLast c0 c1 c2 c3 =
      ⟨anyBad c0 c1 c2 c3 || !padOk c0 c1 c2 c3, causeBits (anyBad c0 c1 c2 c3) false (!padOk c0 c1 c2 c3),
        if anyBad c0 c1 c2 c3 || !padOk c0 c1 c2 c3 then 0 else padCount c2 c3⟩ := by
  rw [verdictLast, verdict_causeBits, Bool.or_false]

/-- On a short group the verdict is a constant (R104). -/
theorem verdictShort_eq : verdictShort = ⟨true, 0b010, 0⟩ := rfl

/-! ### The operations -/

/-- Settles O6: a group without `BAD` and `PAD` lanes is one of symbols only. -/
theorem valMidVerdict : Obligations.ValMidVerdict := by
  unfold Obligations.ValMidVerdict
  refine ⟨fun c0 c1 c2 c3 s => ?_, fun c0 c1 c2 c3 s => ⟨_, exec_valMid .., ?_⟩,
    fun s => ⟨_, exec_valMid .., rfl⟩, fun s => ⟨_, exec_valMid .., rfl⟩,
    fun s => ⟨_, exec_valMid .., rfl⟩, fun s => ⟨_, exec_valMid .., rfl⟩⟩
  · intro bad pad
    rw [exec_valMid, State.driveV, valUnit_mid, verdictMid_eq, anyBad_eq_decide, anyPad_eq_decide]; rfl
  · rw [State.driveV, State.putV_valOut, valUnit_mid, verdictMid_eq]
    exact anyBad_or_anyPad_eq_false_iff c0 c1 c2 c3

/-- Settles O7: the three allowed masks are those without `m_0 | m_1 | (m_2 & ~m_3)`, and no index of a symbol is looked at. -/
theorem valLastVerdict : Obligations.ValLastVerdict := by
  unfold Obligations.ValLastVerdict
  refine ⟨fun c0 c1 c2 c3 s => ?_,
    fun s => ⟨_, exec_valLast .., rfl⟩, fun s => ⟨_, exec_valLast .., rfl⟩,
    fun s => ⟨_, exec_valLast .., rfl⟩, fun s => ⟨_, exec_valLast .., rfl⟩,
    fun s => ⟨_, exec_valLast .., rfl⟩, fun s => ⟨_, exec_valLast .., rfl⟩⟩
  intro bad pad
  rw [exec_valLast, State.driveV, valUnit_last, verdictLast_eq, anyBad_eq_decide, not_padOk_eq_decide, padCount_eq]; rfl

/-- Settles O8: neither `last` nor a lane reaches the outputs. -/
theorem valShortVerdict : Obligations.ValShortVerdict := by
  unfold Obligations.ValShortVerdict
  refine ⟨fun last c0 c1 c2 c3 s => ?_, by decide⟩
  rw [exec_valShort, State.driveV, valUnit_short, verdictShort_eq]; rfl

end Sys2Proof.Machine
end

section
/-! PROOFS. Unit D's operations (R122 to R125): the 24-bit value read back from its bytes, unit D's outputs for each form of group, and what reaches its ports on an error. -/

namespace Sys2Proof.Machine

/-! ### The packed value is read back from its bytes (R61, R62) -/

/-- A 24-bit value is packed from its own three bytes. -/
@[simp] theorem pack3_bytes (v : Packed) : pack3 (byte0 v) (byte1 v) (byte2 v) = v := by
  refine BitVec.eq_of_getLsbD_eq fun i hi => ?_
  rw [pack3_getLsbD]
  interval_cases i <;> simp [byte0, byte1, byte2]

@[simp] theorem field0_pack4 (i0 i1 i2 i3 : Sym) : field0 (pack4 i0 i1 i2 i3) = i0 := by
  refine extractLsb'_eq_of_getLsbD fun i hi => ?_
  rw [pack4_getLsbD, if_neg (by omega), if_neg (by omega), if_neg (by omega), Nat.add_sub_cancel_left]

@[simp] theorem field1_pack4 (i0 i1 i2 i3 : Sym) : field1 (pack4 i0 i1 i2 i3) = i1 := by
  refine extractLsb'_eq_of_getLsbD fun i hi => ?_
  rw [pack4_getLsbD, if_neg (by omega), if_neg (by omega), if_pos (by omega), Nat.add_sub_cancel_left]

@[simp] theorem field2_pack4 (i0 i1 i2 i3 : Sym) : field2 (pack4 i0 i1 i2 i3) = i2 := by
  refine extractLsb'_eq_of_getLsbD fun i hi => ?_
  rw [pack4_getLsbD, if_neg (by omega), if_pos (by omega), Nat.add_sub_cancel_left]

@[simp] theorem field3_pack4 (i0 i1 i2 i3 : Sym) : field3 (pack4 i0 i1 i2 i3) = i3 := by
  refine extractLsb'_eq_of_getLsbD fun i hi => ?_
  rw [Nat.zero_add, pack4_getLsbD, if_pos hi]

/-! ### Unit D's outputs, form by form (R121 to R124) -/

/-- On a full group that is not final unit D drives all three bytes of the packed value, or the error (R122). -/
theorem decUnit_mid (c0 c1 c2 c3 : Byte) :
    decUnit ⟨true, false, c0, c1, c2, c3⟩ =
      if anyBad c0 c1 c2 c3 || anyPad c0 c1 c2 c3 then
        raiseInvalidD (causeBits (anyBad c0 c1 c2 c3) false (anyPad c0 c1 c2 c3))
      else ⟨false, 0, 0, 3, byte0 (decCore c0 c1 c2 c3), byte1 (decCore c0 c1 c2 c3), byte2 (decCore c0 c1 c2 c3)⟩ := by
  rw [decUnit_eq_gate, valUnit_mid, verdictMid_eq]
  cases anyBad c0 c1 c2 c3 <;> cases anyPad c0 c1 c2 c3 <;> rfl

theorem padCount_eq_zero_iff (c2 c3 : Byte) : padCount c2 c3 = 0 ↔ lanePad c2 = false ∧ lanePad c3 = false := by
  unfold padCount
  cases lanePad c2 <;> cases lanePad c3 <;> decide

/-- In a valid final group a pad on lane 2 has one on lane 3, so the first pad lane tells the count (R103). -/
theorem padCount_of_padOk {c0 c1 c2 c3 : Byte} (h : padOk c0 c1 c2 c3 = true) :
    padCount c2 c3 = if lanePad c2 then 2 else if lanePad c3 then 1 else 0 := by
  rw [padOk_eq, Bool.not_eq_true', Bool.or_eq_false_iff] at h
  have hmask : (lanePad c2 && !lanePad c3) = false := h.2
  revert hmask
  unfold padCount
  cases lanePad c2 <;> cases lanePad c3 <;> decide

/-- On a full final group unit D drives one byte less for each pad, or the error (R123). -/
theorem decUnit_last (c0 c1 c2 c3 : Byte) :
    decUnit ⟨true, true, c0, c1, c2, c3⟩ =
      if anyBad c0 c1 c2 c3 || !padOk c0 c1 c2 c3 then
        raiseInvalidD (causeBits (anyBad c0 c1 c2 c3) false (!padOk c0 c1 c2 c3))
      else if lanePad c2 then ⟨false, 0, 2, 1, byte0 (decCore c0 c1 c2 c3), 0x00, 0x00⟩
      else if lanePad c3 then ⟨false, 0, 1, 2, byte0 (decCore c0 c1 c2 c3), byte1 (decCore c0 c1 c2 c3), 0x00⟩
      else ⟨false, 0, 0, 3, byte0 (decCore c0 c1 c2 c3), byte1 (decCore c0 c1 c2 c3), byte2 (decCore c0 c1 c2 c3)⟩ := by
  rw [decUnit_eq_gate, valUnit_last, verdictLast_eq]
  cases anyBad c0 c1 c2 c3 with
  | true => rfl
  | false =>
    cases hok : padOk c0 c1 c2 c3 with
    | false => rfl
    | true =>
      rw [padCount_of_padOk hok]
      cases lanePad c2 <;> cases lanePad c3 <;> rfl

/-- On a short group unit D drives a constant (R124). -/
theorem decUnit_short (last : Bool) (c0 c1 c2 c3 : Byte) :
    decUnit ⟨false, last, c0, c1, c2, c3⟩ = ⟨true, 0b010, 0, 0, 0x00, 0x00, 0x00⟩ := by
  rw [decUnit_eq_gate, valUnit_short, verdictShort_eq]; rfl

/-- Of four symbols unit D drives the three bytes of their packed value, whether or not the group is final. -/
theorem decUnit_symbols (last : Bool) (i0 i1 i2 i3 : Sym) :
    decUnit ⟨true, last, symToChar i0, symToChar i1, symToChar i2, symToChar i3⟩ =
      ⟨false, 0, 0, 3, byte0 (pack4 i0 i1 i2 i3), byte1 (pack4 i0 i1 i2 i3), byte2 (pack4 i0 i1 i2 i3)⟩ := by
  cases last with
  | false => simp [decUnit_mid, anyBad, anyPad, decCore]
  | true => simp [decUnit_last, anyBad, padOk_eq, decCore]

/-- A final group that is valid with no pad is one of symbols only. -/
theorem exists_symbols_of_last_no_pad {c0 c1 c2 c3 : Byte} (herr : (valUnit ⟨true, true, c0, c1, c2, c3⟩).err = false)
    (hpad : (valUnit ⟨true, true, c0, c1, c2, c3⟩).pad = 0) :
    ∃ i0 i1 i2 i3, c0 = symToChar i0 ∧ c1 = symToChar i1 ∧ c2 = symToChar i2 ∧ c3 = symToChar i3 := by
  simp only [valUnit_last, verdictLast_eq] at herr hpad
  rw [herr] at hpad
  obtain ⟨h2, h3⟩ := (padCount_eq_zero_iff c2 c3).mp hpad
  simp only [anyBad, padOk_eq, Bool.or_eq_false_iff, Bool.not_not] at herr
  obtain ⟨⟨⟨⟨hb0, hb1⟩, hb2⟩, hb3⟩, ⟨h0, h1⟩, -⟩ := herr
  obtain ⟨i0, e0⟩ := exists_symToChar hb0 h0
  obtain ⟨i1, e1⟩ := exists_symToChar hb1 h1
  obtain ⟨i2, e2⟩ := exists_symToChar hb2 h2
  obtain ⟨i3, e3⟩ := exists_symToChar hb3 h3
  exact ⟨i0, i1, i2, i3, e0, e1, e2, e3⟩

/-! ### Unit D on the error (R125) -/

/-- An operation of unit D drives unit D. -/
theorem exec_of_decoder {i : Instr} (h : i.unit = .decoder) (s : State) : ∃ g, exec i s = .next (s.driveD g) := by
  cases i with
  | decMid => exact ⟨_, exec_decMid ..⟩
  | decLast => exact ⟨_, exec_decLast ..⟩
  | decShort => exact ⟨_, exec_decShort ..⟩
  | _ => cases h

/-- On the error the gate lets the cause bits through and nothing else. -/
theorem decUnit_of_err {g : GroupIn} (h : (decUnit g).err = true) : decUnit g = raiseInvalidD (valUnit g).cause := by
  rw [decUnit_eq_gate, gate_of_err h]

/-- An error comes with a cause (R101). -/
theorem valUnit_cause_ne_zero_of_err {g : GroupIn} (h : (valUnit g).err = true) : (valUnit g).cause ≠ 0 := by
  intro hcause
  obtain ⟨hchar, hlen, hpad⟩ := (causeBits_eq_zero _ _ _).mp hcause
  simp [valUnit, hchar, hlen, hpad] at h

/-! ### The operations -/

/-- Settles O11: packing undoes slicing on both sides, and so does the class of a symbol's character. -/
theorem decMidBytes : Obligations.DecMidBytes := by
  unfold Obligations.DecMidBytes
  refine ⟨fun c0 c1 c2 c3 s => ?_, fun i0 i1 i2 i3 s => ⟨_, _, exec_decMid .., ?_, exec_enc3 .., ?_⟩,
    fun b0 b1 b2 s => ⟨_, _, exec_enc3 .., exec_decMid .., ?_⟩,
    fun s => ⟨_, exec_decMid .., rfl⟩, fun s => ⟨_, exec_decMid .., rfl⟩, fun s => ⟨_, exec_decMid .., rfl⟩⟩
  · intro bad pad
    rw [exec_decMid, State.driveD, decUnit_mid, anyBad_eq_decide, anyPad_eq_decide, decCore, byte0_pack4, byte1_pack4,
      byte2_pack4]; rfl
  · simp only [State.driveD, State.putD_decOut, decUnit_symbols]
  · simp only [State.driveD, State.driveE, State.putD_decOut, State.putE_encOut, decUnit_symbols, encUnit_three,
      pack3_bytes, field0_pack4, field1_pack4, field2_pack4, field3_pack4]
  · simp only [State.driveD, State.driveE, State.putD_decOut, State.putE_encOut, encUnit_three, decUnit_symbols,
      pack4_fields, byte0_pack3, byte1_pack3, byte2_pack3]

/-- Settles O12: without the error a pad on lane 2 has one on lane 3, so the three counts are told by the two lanes; a valid group with no pad is one of symbols, which both forms decode alike. -/
theorem decLastBytes : Obligations.DecLastBytes := by
  unfold Obligations.DecLastBytes
  refine ⟨fun c0 c1 c2 c3 s => ?_, fun c0 c1 c2 c3 s => ⟨_, _, exec_decLast .., exec_decMid .., ?_⟩,
    fun s => ⟨_, exec_decLast .., rfl⟩, fun s => ⟨_, exec_decLast .., rfl⟩, fun s => ⟨_, exec_decLast .., rfl⟩⟩
  · intro bad pad
    rw [exec_decLast, State.driveD, decUnit_last, anyBad_eq_decide, not_padOk_eq_decide, decCore, byte0_pack4,
      byte1_pack4, byte2_pack4]
    simp only [lanePad_eq_decide, decide_eq_true_eq]; rfl
  · rintro ⟨herr, hpad⟩
    obtain ⟨i0, i1, i2, i3, rfl, rfl, rfl, rfl⟩ := exists_symbols_of_last_no_pad herr hpad
    simp only [State.driveD, State.putD_decOut, decUnit_symbols]

/-- Settles O13: neither `last` nor a lane reaches the outputs. -/
theorem decShortError : Obligations.DecShortError := by
  unfold Obligations.DecShortError
  refine ⟨fun last c0 c1 c2 c3 s => ?_, by decide⟩
  rw [exec_decShort, State.driveD, decUnit_short]; rfl

/-- Settles O15: the cause is V's, and the error leaves nothing else on the ports. -/
theorem noBytesOnError : Obligations.NoBytesOnError := by
  unfold Obligations.NoBytesOnError
  intro i s hi
  obtain ⟨g, hg⟩ := exec_of_decoder hi s
  refine ⟨_, hg, fun herr => ?_, rfl⟩
  rw [State.driveD, State.putD_decOut] at herr ⊢
  rw [decUnit_of_err herr]
  exact ⟨rfl, rfl, rfl, rfl, rfl, valUnit_cause_ne_zero_of_err herr⟩

end Sys2Proof.Machine
end

section
/-! PROOFS. Streams (R140 to R149, R155): an evaluation drives its unit with the operation's lanes; ENCODE group by group is the source's encode; DECODE group by group, from which it gives encoded bytes back and accepts only symbols followed by at most two pads. -/

namespace Sys2Proof.Machine

/-! ### One evaluation of the environment -/

/-- An evaluation leaves the ports as presenting the operation's bundle does: the step finds the outputs settled. -/
theorem evaluate_eq_present (i : Instr) (s : State) : evaluate i s = .next (s.present (encode i)) := by
  have hagain (b : Bundle) : (s.present b).present b = s.present b := by cases b <;> rfl
  rw [evaluate, step_eq_present_fetch, State.fetch_present, hagain]

theorem State.present_ein (i : EncIn) (s : State) : s.present (.e i.ein) = s.driveE i := by
  rw [State.present, EncIn.ofEin_ein]

theorem State.present_d_gin (g : GroupIn) (s : State) : s.present (.d g.gin) = s.driveD g := by
  rw [State.present, GroupIn.ofGin_gin]

theorem evaluate_of_encode_ein {i : Instr} {e : EncIn} (h : encode i = .e e.ein) (s : State) :
    evaluate i s = .next (s.driveE e) := by
  rw [evaluate_eq_present, h, State.present_ein]

theorem evaluate_of_encode_d_gin {i : Instr} {g : GroupIn} (h : encode i = .d g.gin) (s : State) :
    evaluate i s = .next (s.driveD g) := by
  rw [evaluate_eq_present, h, State.present_d_gin]

theorem evaluate_enc1 (b0 b1 b2 : Byte) (s : State) : evaluate (.enc1 b0 b1 b2) s = .next (s.driveE ⟨1, b0, b1, b2⟩) :=
  evaluate_of_encode_ein rfl s

theorem evaluate_enc2 (b0 b1 b2 : Byte) (s : State) : evaluate (.enc2 b0 b1 b2) s = .next (s.driveE ⟨2, b0, b1, b2⟩) :=
  evaluate_of_encode_ein rfl s

theorem evaluate_enc3 (b0 b1 b2 : Byte) (s : State) : evaluate (.enc3 b0 b1 b2) s = .next (s.driveE ⟨3, b0, b1, b2⟩) :=
  evaluate_of_encode_ein rfl s

theorem evaluate_decMid (c0 c1 c2 c3 : Byte) (s : State) :
    evaluate (.decMid c0 c1 c2 c3) s = .next (s.driveD ⟨true, false, c0, c1, c2, c3⟩) :=
  evaluate_of_encode_d_gin rfl s

theorem evaluate_decLast (c0 c1 c2 c3 : Byte) (s : State) :
    evaluate (.decLast c0 c1 c2 c3) s = .next (s.driveD ⟨true, true, c0, c1, c2, c3⟩) :=
  evaluate_of_encode_d_gin rfl s

theorem evaluate_decShort (last : Bool) (c0 c1 c2 c3 : Byte) (s : State) :
    evaluate (.decShort last c0 c1 c2 c3) s = .next (s.driveD ⟨false, last, c0, c1, c2, c3⟩) :=
  evaluate_of_encode_d_gin rfl s

/-! ### The source's encode, group by group (R36, R64, R80) -/

theorem toNat_pack3 (a b c : Byte) : (pack3 a b c).toNat = a.toNat * 65536 + b.toNat * 256 + c.toNat := by
  rw [pack3_eq_append, BitVec.toNat_append, BitVec.toNat_append, ← Nat.shiftLeft_add_eq_or_of_lt c.isLt,
    ← Nat.shiftLeft_add_eq_or_of_lt b.isLt, Nat.shiftLeft_eq, Nat.shiftLeft_eq]
  omega

/-- The source's characters of a group are the symbols of the packed value's fields: both read the same 24 bits. -/
theorem sourceChars_eq (a b c : Byte) :
    sourceChars a b c =
      [symToChar (field0 (pack3 a b c)), symToChar (field1 (pack3 a b c)), symToChar (field2 (pack3 a b c)),
        symToChar (field3 (pack3 a b c))] := by
  simp only [sourceChars, symToChar, field0, field1, field2, field3, BitVec.extractLsb'_toNat, toNat_pack3,
    Nat.shiftRight_eq_div_pow, Nat.reducePow, Nat.div_one]

theorem padBytes_three (a b c : Byte) (rest : List Byte) : padBytes (a :: b :: c :: rest) = padBytes rest := by
  simp only [padBytes, List.length_cons]
  omega

theorem length_sourceEncodeGroups : ∀ x : List Byte, (sourceEncodeGroups x).length = 4 * (x.length / 3)
  | [] | [_] | [_, _] => by simp [sourceEncodeGroups]
  | a :: b :: c :: rest => by
    rw [sourceEncodeGroups, List.length_append, length_sourceEncodeGroups rest, sourceChars_eq]
    simp only [List.length_cons, List.length_nil]
    omega

theorem length_padded_groups (x : List Byte) :
    (sourceEncodeGroups (x ++ List.replicate (padBytes x) 0)).length = 4 * ((x.length + 2) / 3) := by
  rw [length_sourceEncodeGroups, List.length_append, List.length_replicate, padBytes]
  omega

/-- No more characters are replaced by `=` than there are. -/
theorem padBytes_le (x : List Byte) : padBytes x ≤ 4 * ((x.length + 2) / 3) := by
  unfold padBytes
  omega

theorem length_sourceEncode (x : List Byte) : (sourceEncode x).length = 4 * ((x.length + 2) / 3) := by
  have hle := padBytes_le x
  simp only [sourceEncode, List.length_append, List.length_take, List.length_replicate, length_padded_groups]
  omega

theorem sourceEncode_one (a : Byte) :
    sourceEncode [a] =
      [symToChar (field0 (pack3 a 0 0)), symToChar (field1 (pack3 a 0 0)), Config.padChar, Config.padChar] := by
  have hgroup : sourceEncode [a] = (sourceChars a 0 0).take 2 ++ List.replicate 2 Config.padChar := rfl
  rw [hgroup, sourceChars_eq]; rfl

theorem sourceEncode_two (a b : Byte) :
    sourceEncode [a, b] =
      [symToChar (field0 (pack3 a b 0)), symToChar (field1 (pack3 a b 0)), symToChar (field2 (pack3 a b 0)),
        Config.padChar] := by
  have hgroup : sourceEncode [a, b] = (sourceChars a b 0).take 3 ++ List.replicate 1 Config.padChar := rfl
  rw [hgroup, sourceChars_eq]; rfl

/-- A full group in front stays in front: the characters replaced by `=` are all of the rest. -/
theorem sourceEncode_three (a b c : Byte) (rest : List Byte) :
    sourceEncode (a :: b :: c :: rest) = sourceChars a b c ++ sourceEncode rest := by
  have hle := padBytes_le rest
  rw [← length_padded_groups] at hle
  simp only [sourceEncode, padBytes_three, List.cons_append, sourceEncodeGroups, List.length_append]
  rw [Nat.add_sub_assoc hle, List.take_length_add_append, List.append_assoc]

/-! ### ENCODE (R140, R141) -/

theorem takeChars_one (a y1 y2 : Byte) (s : State) : takeChars (s.driveE ⟨1, a, y1, y2⟩) = sourceEncode [a] := by
  rw [sourceEncode_one]; rfl

theorem takeChars_two (a b y2 : Byte) (s : State) : takeChars (s.driveE ⟨2, a, b, y2⟩) = sourceEncode [a, b] := by
  rw [sourceEncode_two]; rfl

theorem takeChars_three (a b c : Byte) (s : State) : takeChars (s.driveE ⟨3, a, b, c⟩) = sourceChars a b c := by
  rw [sourceChars_eq]; rfl

theorem trace_encodeOps (y1 y2 : Byte) : ∀ (x : List Byte) (s : State), ∃ ts,
    trace (encodeOps y1 y2 x) s = .next ts ∧ ts.flatMap takeChars = sourceEncode x
  | [], s => ⟨[], rfl, rfl⟩
  | [a], s => ⟨_, trace_cons (evaluate_enc1 ..) rfl, (List.flatMap_singleton ..).trans (takeChars_one ..)⟩
  | [a, b], s => ⟨_, trace_cons (evaluate_enc2 ..) rfl, (List.flatMap_singleton ..).trans (takeChars_two ..)⟩
  | a :: b :: c :: rest, s => by
    obtain ⟨ts, hrun, hchars⟩ := trace_encodeOps y1 y2 rest (s.driveE ⟨3, a, b, c⟩)
    refine ⟨_, trace_cons (evaluate_enc3 ..) hrun, ?_⟩
    rw [List.flatMap_cons, takeChars_three, hchars, sourceEncode_three]

theorem encodeStream_eq (y1 y2 : Byte) (x : List Byte) (s : State) :
    encodeStream y1 y2 x s = .next (sourceEncode x) := by
  obtain ⟨ts, hrun, hchars⟩ := trace_encodeOps y1 y2 x s
  rw [encodeStream, hrun, joinTrace_next, hchars]

/-- Settles O45: unit E's masked lanes are the source's zero padding, and its `=` lanes are the replaced characters, which all belong to the final group. -/
theorem encodeStreamIsSourceEncode : Obligations.EncodeStreamIsSourceEncode := by
  unfold Obligations.EncodeStreamIsSourceEncode
  exact fun y1 y2 x s => ⟨encodeStream_eq y1 y2 x s, length_sourceEncode x⟩

/-- Settles O46: of nothing no group is cut, so the units are not run. -/
theorem emptyStreams : Obligations.EmptyStreams := by
  unfold Obligations.EmptyStreams
  exact fun y1 y2 z1 z2 z3 s => ⟨encodeOps_nil y1 y2, rfl, groupOps_nil .., rfl⟩

/-! ### DECODE, group by group (R143 to R145) -/

/-- The bytes of a group, as many as `dec_len_o` says (R145). -/
def DecOut.bytes (o : DecOut) : List Byte := [o.b0, o.b1, o.b2].take o.len.toNat

/-- One group in front of the result of the groups after it: its error fails the whole, with no bytes (R144). -/
def DecOut.before (o : DecOut) (r : Except InvalidBase64Format (List Byte)) : Except InvalidBase64Format (List Byte) :=
  if o.err then .error .raised else r.map (o.bytes ++ ·)

/-- DECODE as a function of the string alone: unit D's outputs on each group, `last` on the final one (R143). -/
def decodeGroups : List Byte → Except InvalidBase64Format (List Byte)
  | [] => .ok []
  | [a, b, c, d] => (decUnit ⟨true, true, a, b, c, d⟩).before (.ok [])
  | a :: b :: c :: d :: e :: rest => (decUnit ⟨true, false, a, b, c, d⟩).before (decodeGroups (e :: rest))
  | _ => .error .raised

theorem decodeGroups_last (a b c d : Byte) :
    decodeGroups [a, b, c, d] = (decUnit ⟨true, true, a, b, c, d⟩).before (.ok []) := rfl

theorem decodeGroups_more (a b c d e : Byte) (rest : List Byte) :
    decodeGroups (a :: b :: c :: d :: e :: rest) =
      (decUnit ⟨true, false, a, b, c, d⟩).before (decodeGroups (e :: rest)) := rfl

theorem joinBytes_cons (t : State) (ts : List State) : joinBytes (t :: ts) = t.decOut.before (joinBytes ts) := by
  cases herr : t.decOut.err with
  | true => simp [joinBytes, DecOut.before, herr]
  | false =>
    simp only [joinBytes, DecOut.before, List.any_cons, herr, Bool.false_or, Bool.false_eq_true, if_false]
    split <;> rfl

theorem joinBytes_short (last : Bool) (c0 c1 c2 c3 : Byte) (s : State) :
    joinBytes [s.driveD ⟨false, last, c0, c1, c2, c3⟩] = .error .raised := by
  rw [joinBytes_cons, State.driveD, State.putD_decOut, decUnit_short]; rfl

theorem trace_decodeOps (z1 z2 z3 : Byte) : ∀ (str : List Byte) (s : State), ∃ ts,
    trace (decodeOps z1 z2 z3 str) s = .next ts ∧ joinBytes ts = decodeGroups str
  | [], s => ⟨[], rfl, rfl⟩
  | [a], s => ⟨_, trace_cons (evaluate_decShort ..) rfl, joinBytes_short ..⟩
  | [a, b], s => ⟨_, trace_cons (evaluate_decShort ..) rfl, joinBytes_short ..⟩
  | [a, b, c], s => ⟨_, trace_cons (evaluate_decShort ..) rfl, joinBytes_short ..⟩
  | [a, b, c, d], s => ⟨_, trace_cons (evaluate_decLast ..) rfl, joinBytes_cons ..⟩
  | a :: b :: c :: d :: e :: rest, s => by
    obtain ⟨ts, hrun, hbytes⟩ := trace_decodeOps z1 z2 z3 (e :: rest) (s.driveD ⟨true, false, a, b, c, d⟩)
    refine ⟨_, trace_cons (evaluate_decMid ..) hrun, ?_⟩
    rw [joinBytes_cons, hbytes, decodeGroups_more, State.driveD, State.putD_decOut]

/-- From any state, and whatever stands on the lanes that hold no character, DECODE depends on the string alone. -/
theorem decodeStream_eq (z1 z2 z3 : Byte) (str : List Byte) (s : State) :
    decodeStream z1 z2 z3 str s = .next (decodeGroups str) := by
  obtain ⟨ts, hrun, hbytes⟩ := trace_decodeOps z1 z2 z3 str s
  rw [decodeStream, hrun, joinTrace_next, hbytes]

/-! ### DECODE of ENCODE (R147) -/

/-- Four symbols give their three bytes, whether or not another group follows. -/
theorem decodeGroups_symbols (i0 i1 i2 i3 : Sym) (str : List Byte) :
    decodeGroups (symToChar i0 :: symToChar i1 :: symToChar i2 :: symToChar i3 :: str) =
      (decodeGroups str).map
        ([byte0 (pack4 i0 i1 i2 i3), byte1 (pack4 i0 i1 i2 i3), byte2 (pack4 i0 i1 i2 i3)] ++ ·) := by
  cases str with
  | nil => rw [decodeGroups_last, decUnit_symbols]; rfl
  | cons e rest => rw [decodeGroups_more, decUnit_symbols]; rfl

/-- Three symbols and `=` give two bytes, in which the third symbol's two low bits have no part. -/
theorem decodeGroups_one_pad (i0 i1 i2 : Sym) :
    decodeGroups [symToChar i0, symToChar i1, symToChar i2, Config.padChar] =
      .ok [byte0 (pack4 i0 i1 i2 0), byte1 (pack4 i0 i1 i2 0)] := by
  simp [decodeGroups_last, decUnit_last, anyBad, padOk_eq, decCore, DecOut.before, DecOut.bytes, Except.map]

/-- Two symbols and `==` give one byte. -/
theorem decodeGroups_two_pads (i0 i1 : Sym) :
    decodeGroups [symToChar i0, symToChar i1, Config.padChar, Config.padChar] = .ok [byte0 (pack4 i0 i1 0 0)] := by
  simp [decodeGroups_last, decUnit_last, anyBad, padOk_eq, decCore, DecOut.before, DecOut.bytes, Except.map]

theorem decodeGroups_sourceEncode : ∀ x : List Byte, decodeGroups (sourceEncode x) = .ok x
  | [] => rfl
  | [a] => by
    have h0 : byte0 (pack4 (field0 (pack3 a 0 0)) (field1 (pack3 a 0 0)) 0 0) = byte0 (pack3 a 0 0) := by
      rw [byte0_pack4, ← byte0_pack4 _ _ (field2 (pack3 a 0 0)) (field3 (pack3 a 0 0)), pack4_fields]
    rw [sourceEncode_one, decodeGroups_two_pads, h0, byte0_pack3]
  | [a, b] => by
    have hpad : field3 (pack3 a b 0) = 0 := by rw [field3_pack3]; decide
    rw [sourceEncode_two, decodeGroups_one_pad, ← hpad, pack4_fields, byte0_pack3, byte1_pack3]
  | a :: b :: c :: rest => by
    rw [sourceEncode_three, sourceChars_eq]
    simp only [List.cons_append, List.nil_append, decodeGroups_symbols, pack4_fields, byte0_pack3, byte1_pack3,
      byte2_pack3, decodeGroups_sourceEncode rest]
    rfl

/-- Settles O50: each group of characters gives back the bytes it was made from, and only the final one has pads. -/
theorem streamRoundTrip : Obligations.StreamRoundTrip := by
  unfold Obligations.StreamRoundTrip
  intro y1 y2 z1 z2 z3 x s s'
  exact ⟨_, encodeStream_eq .., by rw [decodeStream_eq, decodeGroups_sourceEncode]⟩

/-! ### What DECODE accepts (R106, R149) -/

/-- Symbols, followed by nothing but at most two pads. -/
def SymbolsThenPads (str : List Byte) : Prop :=
  ∃ (syms : List Sym) (p : Nat), p ≤ 2 ∧ str = syms.map symToChar ++ List.replicate p Config.padChar

theorem SymbolsThenPads.symbols_append {str : List Byte} (h : SymbolsThenPads str) (syms : List Sym) :
    SymbolsThenPads (syms.map symToChar ++ str) := by
  obtain ⟨syms', p, hp, rfl⟩ := h
  exact ⟨syms ++ syms', p, hp, by rw [List.map_append, List.append_assoc]⟩

theorem DecOut.before_eq_ok {o : DecOut} {r : Except InvalidBase64Format (List Byte)} {x : List Byte}
    (h : o.before r = .ok x) : o.err = false ∧ ∃ y, r = .ok y := by
  unfold DecOut.before at h
  split at h
  next => cases h
  next herr =>
    cases r with
    | error => cases h
    | ok y => exact ⟨Bool.eq_false_iff.mpr herr, y, rfl⟩

/-- A group that is accepted as not final is one of symbols. -/
theorem symbols_of_decUnit_mid {a b c d : Byte} (h : (decUnit ⟨true, false, a, b, c, d⟩).err = false) :
    ∃ i0 i1 i2 i3, [a, b, c, d] = [i0, i1, i2, i3].map symToChar := by
  have hv : (verdictMid a b c d).err = false := by rw [← valUnit_mid]; exact h
  rw [verdictMid_eq] at hv
  obtain ⟨⟨i0, h0⟩, ⟨i1, h1⟩, ⟨i2, h2⟩, ⟨i3, h3⟩⟩ := (anyBad_or_anyPad_eq_false_iff a b c d).mp hv
  exact ⟨i0, i1, i2, i3, by simp [eq_symToChar_of_class, h0, h1, h2, h3]⟩

/-- A group that is accepted as final is one of symbols followed by at most two pads. -/
theorem symbolsThenPads_of_decUnit_last {a b c d : Byte} (h : (decUnit ⟨true, true, a, b, c, d⟩).err = false) :
    SymbolsThenPads [a, b, c, d] := by
  have hv : (verdictLast a b c d).err = false := by rw [← valUnit_last]; exact h
  rw [verdictLast_eq] at hv
  simp only [anyBad, padOk_eq, Bool.or_eq_false_iff, Bool.not_not] at hv
  obtain ⟨⟨⟨⟨ha, hb⟩, hc⟩, hd⟩, ⟨ha', hb'⟩, hcd⟩ := hv
  obtain ⟨i0, rfl⟩ := exists_symToChar ha ha'
  obtain ⟨i1, rfl⟩ := exists_symToChar hb hb'
  cases hd' : lanePad d with
  | false =>
    have hc' : lanePad c = false := by simpa [hd'] using hcd
    obtain ⟨i2, rfl⟩ := exists_symToChar hc hc'
    obtain ⟨i3, rfl⟩ := exists_symToChar hd hd'
    exact ⟨[i0, i1, i2, i3], 0, by decide, rfl⟩
  | true =>
    obtain rfl := (lanePad_iff d).mp hd'
    cases hc' : lanePad c with
    | false =>
      obtain ⟨i2, rfl⟩ := exists_symToChar hc hc'
      exact ⟨[i0, i1, i2], 1, by decide, rfl⟩
    | true =>
      obtain rfl := (lanePad_iff c).mp hc'
      exact ⟨[i0, i1], 2, by decide, rfl⟩

/-- What DECODE does not reject is cut into full groups, all of symbols but for the pads at the end. -/
theorem shape_of_decodeGroups_ok : ∀ {str x : List Byte}, decodeGroups str = .ok x →
    str.length % 4 = 0 ∧ SymbolsThenPads str
  | [], _, _ => ⟨rfl, [], 0, by decide, rfl⟩
  | [_], _, h | [_, _], _, h | [_, _, _], _, h => by cases h
  | [a, b, c, d], _, h => ⟨by simp, symbolsThenPads_of_decUnit_last (DecOut.before_eq_ok h).1⟩
  | a :: b :: c :: d :: e :: rest, _, h => by
    obtain ⟨herr, y, hy⟩ := DecOut.before_eq_ok h
    obtain ⟨hlen, hrest⟩ := shape_of_decodeGroups_ok hy
    obtain ⟨i0, i1, i2, i3, hgroup⟩ := symbols_of_decUnit_mid herr
    have hshape := hrest.symbols_append [i0, i1, i2, i3]
    rw [← hgroup] at hshape
    simp only [List.length_cons] at hlen ⊢
    exact ⟨by omega, hshape⟩

/-- A string without the accepted shape gets the one error (R144). -/
theorem decodeStream_raises {str : List Byte} (h : ¬ (str.length % 4 = 0 ∧ SymbolsThenPads str))
    (z1 z2 z3 : Byte) (s : State) : decodeStream z1 z2 z3 str s = .next (.error .raised) := by
  rw [decodeStream_eq]
  cases hr : decodeGroups str with
  | error => rfl
  | ok x => exact absurd (shape_of_decodeGroups_ok hr) h

theorem padChar_not_mem_symbols (syms : List Sym) : Config.padChar ∉ syms.map symToChar := by
  simp [symToChar_ne_padChar]

theorem SymbolsThenPads.not_bad {str : List Byte} (h : SymbolsThenPads str) {c : Byte} (hc : c ∈ str) :
    classOf c ≠ .bad := by
  obtain ⟨syms, p, -, rfl⟩ := h
  obtain hsym | hpad := List.mem_append.mp hc
  · obtain ⟨i, -, rfl⟩ := List.mem_map.mp hsym
    simp
  · simp [List.eq_of_mem_replicate hpad]

/-- After a pad there are only pads. -/
theorem SymbolsThenPads.pad_of_pad_before {a b : List Byte} {c : Byte} (h : SymbolsThenPads (a ++ c :: b))
    (ha : Config.padChar ∈ a) : c = Config.padChar := by
  obtain ⟨syms, p, -, heq⟩ := h
  obtain ⟨l, hsyms, -⟩ | ⟨l, -, hpads⟩ := List.append_eq_append_iff.mp heq
  · exact absurd (hsyms ▸ List.mem_append_left l ha) (padChar_not_mem_symbols syms)
  · exact List.eq_of_mem_replicate (hpads ▸ List.mem_append_right l List.mem_cons_self)

theorem SymbolsThenPads.count_pad_le {str : List Byte} (h : SymbolsThenPads str) :
    str.count Config.padChar ≤ 2 := by
  obtain ⟨syms, p, hp, rfl⟩ := h
  rw [List.count_append, List.count_eq_zero_of_not_mem (padChar_not_mem_symbols syms), List.count_replicate_self]
  omega

/-- Settles O52: what is not rejected is symbols, then at most two pads, in full groups; each kind of string named departs from that. -/
theorem decodeRejects : Obligations.DecodeRejects := by
  unfold Obligations.DecodeRejects
  intro z1 z2 z3 s
  have hpad (a b : List Byte) (c : Byte) (ha : 0x3D#8 ∈ a) (hc : c ≠ 0x3D#8) :
      decodeStream z1 z2 z3 (a ++ c :: b) s = .next (.error .raised) :=
    decodeStream_raises (fun ⟨_, hshape⟩ => hc (hshape.pad_of_pad_before ha)) z1 z2 z3 s
  refine ⟨fun str hlen => ?_, fun str c hmem hbad => ?_, hpad, fun str hcount => ?_, ?_⟩
  · exact decodeStream_raises (fun ⟨hfull, _⟩ => hlen hfull) z1 z2 z3 s
  · exact decodeStream_raises (fun ⟨_, hshape⟩ => hshape.not_bad hmem hbad) z1 z2 z3 s
  · exact decodeStream_raises (fun ⟨_, hshape⟩ => absurd hshape.count_pad_le (Nat.not_le.mpr hcount)) z1 z2 z3 s
  · exact hpad [0x41, 0x3D] [0x41] 0x41 (by decide) (by decide)

/-! ### The byte inverter (R155) -/

theorem invert_invert (x : List Byte) : invert (invert x) = x := by
  simp [invert, Function.comp_def]

theorem length_invert (x : List Byte) : (invert x).length = x.length := List.length_map ..

/-- Settles O55: a map of the complement, which undoes itself bit by bit. -/
theorem invertIsInvolution : Obligations.InvertIsInvolution := by
  unfold Obligations.InvertIsInvolution
  refine fun x => ⟨invert_invert x, length_invert x, fun k hk => ?_⟩
  have hk' : k < (invert x).length := by rwa [length_invert]
  rw [List.getD_eq_getElem _ _ hk, List.getD_eq_getElem _ _ hk']
  exact List.getElem_map ..

end Sys2Proof.Machine
end

section
/-! PROOFS. Decode and encode (R50, R53, R55, R57, R60): the operation a bundle selects, read from the bundle's fields, so that every operation is read back from its own bundle; raw words; the alphabet and the character classes code by code. -/

namespace Sys2Proof.Machine

/-! ### Decode of encode (R60) -/

/-- The length field of `EIN` alone selects the operation of unit E. -/
theorem decodeEin_einOf (len : BitVec 2) (b0 b1 b2 : Byte) :
    decodeEin (einOf len b0 b1 b2) =
      if len = 0b00#2 then .enc0 b0 b1 b2 else if len = 0b01#2 then .enc1 b0 b1 b2
      else if len = 0b10#2 then .enc2 b0 b1 b2 else .enc3 b0 b1 b2 := by
  obtain ⟨hlen, h0, h1, h2⟩ := einOf_lanes len b0 b1 b2
  simp only [decodeEin, hlen, h0, h1, h2]

/-- `full` and `last` alone select the operation of unit V. -/
theorem decodeValGin_ginOf (full last : Bool) (c0 c1 c2 c3 : Byte) :
    decodeValGin (ginOf full last c0 c1 c2 c3) =
      if full then if last then .valLast c0 c1 c2 c3 else .valMid c0 c1 c2 c3
      else .valShort last c0 c1 c2 c3 := by
  obtain ⟨hfull, hlast, h0, h1, h2, h3⟩ := ginOf_lanes full last c0 c1 c2 c3
  simp only [decodeValGin, hfull, hlast, h0, h1, h2, h3]

/-- `full` and `last` alone select the operation of unit D. -/
theorem decodeDecGin_ginOf (full last : Bool) (c0 c1 c2 c3 : Byte) :
    decodeDecGin (ginOf full last c0 c1 c2 c3) =
      if full then if last then .decLast c0 c1 c2 c3 else .decMid c0 c1 c2 c3
      else .decShort last c0 c1 c2 c3 := by
  obtain ⟨hfull, hlast, h0, h1, h2, h3⟩ := ginOf_lanes full last c0 c1 c2 c3
  simp only [decodeDecGin, hfull, hlast, h0, h1, h2, h3]

/-- The operation that an operation's bundle selects is that operation. -/
theorem decode_encode (i : Instr) : decode (encode i) = i := by
  cases i with
  | enc0 | enc1 | enc2 | enc3 => exact decodeEin_einOf ..
  | valMid | valLast | valShort => exact decodeValGin_ginOf ..
  | decMid | decLast | decShort => exact decodeDecGin_ginOf ..

/-- Settles O32: every field of a bundle is read back from where it was written. -/
theorem decodeOfEncode : Obligations.DecodeOfEncode := by
  unfold Obligations.DecodeOfEncode
  exact decode_encode

/-- Settles O33: the fields of a bundle, joined again, are that bundle. -/
theorem encodeOfDecode : Obligations.EncodeOfDecode := by
  unfold Obligations.EncodeOfDecode
  exact encode_decode

/-- Settles O35: ten closed words. -/
theorem sampleWordsDecode : Obligations.SampleWordsDecode := by
  unfold Obligations.SampleWordsDecode
  decide

/-! ### Raw words (R55, R57) -/

/-- The operation a bundle selects belongs to the bundle's unit. -/
theorem decode_unit (b : Bundle) : (decode b).unit = b.unit := by
  obtain ⟨hunit, -, -⟩ := tablePattern_all (decode b)
  rw [encode_decode] at hunit
  exact hunit.symm

theorem bundleOf_unit (u : UnitId) (w : Nat) : (bundleOf u w).unit = u := by cases u <;> rfl

/-- A word that fits the unit's bundle keeps all its bits there. -/
theorem bundleOf_toNat {u : UnitId} {w : Nat} (h : w < 2 ^ Config.bundleWidth u) : (bundleOf u w).toNat = w := by
  cases u <;> exact (BitVec.toNat_ofNat ..).trans (Nat.mod_eq_of_lt h)

theorem bundleOfWord_of_lt {u : UnitId} {w : Nat} (h : w < 2 ^ Config.bundleWidth u) :
    bundleOfWord u w = .ok (bundleOf u w) := by
  simp [bundleOfWord, wordWf, h]

theorem bundleOfWord_of_le {u : UnitId} {w : Nat} (h : 2 ^ Config.bundleWidth u ≤ w) :
    bundleOfWord u w = .error .bitsAboveBundle := by
  simp [bundleOfWord, wordWf, h]

/-- Settles O36: the width check decides between the two answers, and a word within the width loses no bit. -/
theorem strayBitsAreRefused : Obligations.StrayBitsAreRefused := by
  unfold Obligations.StrayBitsAreRefused
  refine fun u w => ⟨fun h => ?_, fun h => ⟨?_, bundleOf_toNat h, ?_⟩⟩
  · rw [decodeWord, bundleOfWord_of_le h]; rfl
  · rw [decodeWord, bundleOfWord_of_lt h]; rfl
  · rw [decode_unit, bundleOf_unit]

/-! ### The constant tables (R50, R53) -/

/-- Settles O38: 64 closed cases. -/
theorem alphabetByRanges : Obligations.AlphabetByRanges := by
  unfold Obligations.AlphabetByRanges
  decide

theorem classOf_eq_sym_iff (c : Byte) (i : Sym) : classOf c = .sym i ↔ c = symToChar i :=
  ⟨eq_symToChar_of_class, fun h => h ▸ classOf_symToChar i⟩

theorem classOf_eq_pad_iff (c : Byte) : classOf c = .pad ↔ c = 0x3D#8 :=
  decide_eq_true_iff.symm.trans (lanePad_iff c)

/-- The 256 codes counted in four parts, so that each count is short enough to compute. -/
theorem countP_range_256 (p : Nat → Bool) :
    (List.range 256).countP p =
      (List.range 64).countP p + (List.range 64).countP (fun n => p (64 + n)) +
        (List.range 64).countP (fun n => p (128 + n)) + (List.range 64).countP (fun n => p (192 + n)) := by
  rw [show 256 = 64 + 64 + 64 + 64 from rfl, List.range_add, List.range_add, List.range_add]
  simp only [List.countP_append, List.countP_map]; rfl

/-- The codes that R53 names as `BAD`. -/
theorem classOf_bad_of_toNat (c : Byte) : c.toNat ≤ 0x2A ∨ (0x2C ≤ c.toNat ∧ c.toNat ≤ 0x2E) ∨
    (0x3A ≤ c.toNat ∧ c.toNat ≤ 0x3C) ∨ (0x3E ≤ c.toNat ∧ c.toNat ≤ 0x40) ∨ (0x5B ≤ c.toNat ∧ c.toNat ≤ 0x60) ∨
    0x7B ≤ c.toNat → classOf c = .bad := by
  revert c; decide

/-- Settles O40: the classes code by code, the symbols counted by the lane tests of R100. -/
theorem classInvertsAlphabet : Obligations.ClassInvertsAlphabet := by
  unfold Obligations.ClassInvertsAlphabet
  refine ⟨classOf_eq_sym_iff, classOf_eq_pad_iff, ?_, ?_, ?_, fun n hn => classOf_bad_of_toNat _ ?_⟩
  · simp only [isSymbol_iff_lane, countP_range_256]
    decide
  · rw [countP_range_256]
    decide
  · rw [countP_range_256]
    decide
  · rw [BitVec.toNat_ofNat]
    omega

end Sys2Proof.Machine
end

section
/-! PROOFS. The step, presentations and the invariants (R10, R14 to R21, R38, R40, R63): performing an operation, evaluating it and stepping are presentations of a bundle, and a presentation moves one unit's outputs with its inputs and touches nothing else. -/

namespace Sys2Proof.Machine

/-! ### Every move of the block is a presentation -/

/-- Performing an operation leaves the ports as presenting its bundle does. -/
theorem exec_eq_present (i : Instr) (s : State) : exec i s = .next (s.present (encode i)) := by
  rw [← exec_decode, decode_encode]

/-- What the environment presents is settled already, so the step after it changes nothing. -/
theorem step_present (b : Bundle) (s : State) : step (s.present b) = .next (s.present b) := by
  rw [step_eq_present_fetch, State.fetch_present]
  cases b <;> rfl

theorem State.fetch_unit (s : State) : s.fetch.unit = s.sel := by
  unfold State.fetch
  cases s.sel <;> rfl

theorem encode_unit (i : Instr) : (encode i).unit = i.unit := by
  rw [← decode_unit, decode_encode]

/-! ### What a presentation does -/

theorem State.present_unitSettled (b : Bundle) (s : State) : (s.present b).UnitSettled b.unit := by
  cases b <;> rfl

/-- The other two units keep their ports (R21). -/
theorem State.present_sameElsewhere (b : Bundle) (s : State) : s.SameElsewhere b.unit (s.present b) := by
  cases b with
  | e => exact ⟨.inl rfl, .inr ⟨rfl, rfl⟩, .inr ⟨rfl, rfl⟩⟩
  | v => exact ⟨.inr ⟨rfl, rfl⟩, .inl rfl, .inr ⟨rfl, rfl⟩⟩
  | d => exact ⟨.inr ⟨rfl, rfl⟩, .inr ⟨rfl, rfl⟩, .inl rfl⟩

/-- The unit's ports tell nothing of what stood there before (R17, R40). -/
theorem State.present_sameAt (b : Bundle) (s s' : State) : State.SameAt b.unit (s.present b) (s'.present b) := by
  cases b <;> exact ⟨rfl, rfl⟩

theorem State.Settled.present {s : State} (h : s.Settled) (b : Bundle) : (s.present b).Settled := by
  obtain ⟨he, hv, hd⟩ := h
  cases b with
  | e => exact ⟨rfl, hv, hd⟩
  | v => exact ⟨he, rfl, hd⟩
  | d => exact ⟨he, hv, rfl⟩

/-- An opcode-table word is presented as a bundle, or changes nothing. -/
theorem State.withFetchWord_eq (s : State) (nbits w : Nat) :
    s.withFetchWord nbits w = (tableBundle nbits w).elim s s.present := by
  unfold State.withFetchWord
  cases tableBundle nbits w <;> rfl

/-- A step from a state whose unit at hand is settled writes what already stands on its outputs. -/
theorem step_of_unitSettled {s : State} (h : s.UnitSettled s.sel) : step s = .next s := by
  rw [stepIsUnitFunction s]
  obtain ⟨sel, encIn, encOut, valIn, valOut, decIn, decOut⟩ := s
  cases sel with
  | encoder => obtain rfl : encOut = encUnit encIn := h; rfl
  | validator => obtain rfl : valOut = valUnit valIn := h; rfl
  | decoder => obtain rfl : decOut = decUnit decIn := h; rfl

/-! ### Outputs carry what the rules give (R20) -/

/-- Settles O28: every move presents a bundle, which settles its unit and leaves the others settled. -/
theorem settledIsKept : Obligations.SettledIsKept := by
  unfold Obligations.SettledIsKept
  refine ⟨fun s t hs h => ?_, fun i s t hs h => ?_, fun i s t hs h => ?_, fun b s hs => hs.present b,
    fun nbits w s hs => ?_, fun s t h => ?_, State.present_unitSettled⟩
  · rw [step_eq_present_fetch] at h; cases h
    exact hs.present _
  · rw [exec_eq_present] at h; cases h
    exact hs.present _
  · rw [evaluate_eq_present] at h; cases h
    exact hs.present _
  · rw [State.withFetchWord_eq]
    cases tableBundle nbits w with
    | none => exact hs
    | some b => exact hs.present b
  · rw [step_eq_present_fetch] at h; cases h
    rw [← s.fetch_unit]
    exact State.present_unitSettled _ s

theorem State.reset_settled : State.reset.Settled := ⟨rfl, rfl, rfl⟩

/-- Settles O29: three closed evaluations. -/
theorem resetIsSettled : Obligations.ResetIsSettled := by
  unfold Obligations.ResetIsSettled
  exact State.reset_settled

/-- Settles O58: a presentation drives its unit's outputs from the bundle alone. -/
theorem outputsFollowInputs : Obligations.OutputsFollowInputs := by
  unfold Obligations.OutputsFollowInputs
  exact ⟨fun _ => step_of_unitSettled, step_present, State.present_sameAt, State.present_sameElsewhere⟩

/-! ### Legal values of the ports (R14, R15, R16) -/

theorem isSymbol_symToChar (i : Sym) : IsSymbol (symToChar i) := ⟨i, classOf_symToChar i⟩

/-- Of one byte unit E drives two fields of the value with lanes 1 and 2 masked, and `==` (R83). -/
theorem encUnit_one (b0 b1 b2 : Byte) :
    encUnit ⟨1, b0, b1, b2⟩ =
      ⟨4, symToChar (field0 (pack3 b0 0 0)), symToChar (field1 (pack3 b0 0 0)), Config.padChar, Config.padChar⟩ := rfl

theorem len_cases (len : BitVec 2) : len = 0 ∨ len = 1 ∨ len = 2 ∨ len = 3 := by
  revert len; decide

/-- Unit E drives legal values for every length. -/
theorem encUnit_legalOut (i : EncIn) : i.LegalOut (encUnit i) := by
  obtain ⟨len, b0, b1, b2⟩ := i
  obtain rfl | rfl | rfl | rfl := len_cases len
  · rw [encUnit_zero]
    constructor <;> simp
  · rw [encUnit_one]
    constructor <;> simp [isSymbol_symToChar]
  · rw [encUnit_two]
    constructor <;> simp [isSymbol_symToChar]
  · rw [encUnit_three]
    constructor <;> simp [isSymbol_symToChar]

/-- The cause of a full group is made of `CHAR` and `PAD`, that of a short group is `LEN` (R101). -/
theorem valUnit_causes (g : GroupIn) :
    if g.full then (valUnit g).cause = 0b000#3 ∨ (valUnit g).cause = 0b001#3 ∨ (valUnit g).cause = 0b100#3 ∨
      (valUnit g).cause = 0b101#3 else (valUnit g).cause = 0b010#3 := by
  obtain ⟨full, last, c0, c1, c2, c3⟩ := g
  cases full with
  | false => simp [valUnit_short, verdictShort_eq]
  | true =>
    have hcause (char pad : Bool) : causeBits char false pad = 0b000#3 ∨ causeBits char false pad = 0b001#3 ∨
        causeBits char false pad = 0b100#3 ∨ causeBits char false pad = 0b101#3 := by
      cases char <;> cases pad <;> decide
    exact hcause _ _

/-- Unit V reports an error exactly when it reports a cause (R101). -/
theorem valUnit_err_iff_cause (g : GroupIn) : (valUnit g).err = true ↔ (valUnit g).cause ≠ 0 := by
  refine ⟨valUnit_cause_ne_zero_of_err, fun hcause => ?_⟩
  by_contra herr
  refine hcause ((causeBits_eq_zero _ _ _).mpr ?_)
  simpa [valUnit, and_assoc] using herr

/-- Unit V drives legal values for every group. -/
theorem valUnit_legalStatus (g : GroupIn) :
    g.LegalStatus (valUnit g).err (valUnit g).cause (valUnit g).pad where
  err_iff_cause := valUnit_err_iff_cause g
  causes := valUnit_causes g
  pad_le := by obtain h | h | h := valUnit_pad_cases g <;> rw [h] <;> decide
  pad_zero := by
    rintro (h | h | h)
    · exact valUnit_pad_of_err h
    · simp [valUnit, h]
    · simp [valUnit, lenCause, h]

/-- Unit D drives no byte on an error and otherwise one byte less for each pad; the lanes above are zero. -/
theorem decUnit_legalData (g : GroupIn) : (decUnit g).LegalData where
  len_err h := if_pos h
  len_ok h := by
    have hlen : (decUnit g).len = 3 - (decUnit g).pad := if_neg (Bool.eq_false_iff.mp h)
    have hpad : (decUnit g).pad = (valUnit g).pad := rfl
    refine ⟨hlen, ?_⟩
    rw [hlen, hpad]
    obtain hp | hp | hp := valUnit_pad_cases g <;> rw [hp] <;> decide
  b0_filler h := if_neg (BitVec.not_le.mpr h)
  b1_filler h := if_neg (BitVec.not_le.mpr h)
  b2_filler h := if_neg (BitVec.not_le.mpr h)

/-- A presentation puts legal values on its unit's ports and leaves the others'. -/
theorem State.PortsLegal.present {s : State} (h : s.PortsLegal) (b : Bundle) : (s.present b).PortsLegal := by
  obtain ⟨henc, hval, hdec, hdata⟩ := h
  cases b with
  | e => exact ⟨encUnit_legalOut _, hval, hdec, hdata⟩
  | v => exact ⟨henc, valUnit_legalStatus _, hdec, hdata⟩
  | d => exact ⟨henc, hval, valUnit_legalStatus _, decUnit_legalData _⟩

/-- Settles O30: a step and an evaluation present a bundle, which no unit answers with an illegal value. -/
theorem portsStayLegal : Obligations.PortsStayLegal := by
  unfold Obligations.PortsStayLegal
  refine ⟨fun s t hs h => ?_, fun i s t hs h => ?_⟩
  · rw [step_eq_present_fetch] at h; cases h
    exact hs.present _
  · rw [evaluate_eq_present] at h; cases h
    exact hs.present _

/-- Settled outputs are legal ones. -/
theorem State.Settled.portsLegal {s : State} (h : s.Settled) : s.PortsLegal := by
  obtain ⟨he : s.encOut = _, hv : s.valOut = _, hd : s.decOut = _⟩ := h
  constructor
  · rw [he]; exact encUnit_legalOut _
  · rw [hv]; exact valUnit_legalStatus _
  · rw [hd]; exact valUnit_legalStatus _
  · rw [hd]; exact decUnit_legalData _

/-- Settles O31: the reset state is settled, so its ports are legal and a step finds nothing to change. -/
theorem resetPortsAreLegal : Obligations.ResetPortsAreLegal := by
  unfold Obligations.ResetPortsAreLegal
  exact ⟨State.reset_settled.portsLegal, step_of_unitSettled State.reset_settled.1⟩

/-! ### Frame, history, repetition -/

/-- Settles O19: an operation presents a bundle of its own unit. -/
theorem unitsShareNoSignal : Obligations.UnitsShareNoSignal := by
  unfold Obligations.UnitsShareNoSignal
  intro i s
  have hframe := State.present_sameElsewhere (encode i) s
  rw [encode_unit] at hframe
  exact ⟨_, exec_eq_present i s, hframe⟩

/-- Settles O20: after a presentation the step changes nothing, and the unit's ports depend on the bundle alone. -/
theorem outputsIgnoreHistory : Obligations.OutputsIgnoreHistory := by
  unfold Obligations.OutputsIgnoreHistory
  exact fun b s s' => ⟨_, _, step_present b s, step_present b s', State.present_sameAt b s s'⟩

/-- Settles O26: every move is a presentation. -/
theorem nothingStopsTheBlock : Obligations.NothingStopsTheBlock := by
  unfold Obligations.NothingStopsTheBlock
  exact ⟨fun i s => ⟨_, exec_eq_present i s⟩, fun s => ⟨_, step_eq_present_fetch s⟩⟩

/-- Settles O27: a step presents what stands on the inputs, and a step after a presentation changes nothing. -/
theorem stepIsIdempotent : Obligations.StepIsIdempotent := by
  unfold Obligations.StepIsIdempotent
  exact fun s => ⟨_, step_eq_present_fetch s, step_present _ s⟩

/-- Settles O24: a step reads back the bundle presented. -/
theorem stepRunsDecodedOperation : Obligations.StepRunsDecodedOperation := by
  unfold Obligations.StepRunsDecodedOperation
  have hstep (b : Bundle) (s : State) : step (s.present b) = exec (decode b) (s.present b) := by
    rw [step, State.fetch_present]
  refine ⟨fun s => rfl, hstep, fun i s => ?_, fun nbits w i s hword => ?_⟩
  · rw [evaluate_eq_present, exec_eq_present]
  · obtain ⟨b, hb, rfl⟩ := Option.map_eq_some_iff.mp hword
    rw [State.withFetchWord_eq, hb, decode_unit]
    exact ⟨hstep b s, s.present_sel b, s.present_sameElsewhere b, s.present_unitSettled b⟩

end Sys2Proof.Machine
end

section
/-! PROOFS. What the checks accept (R102, R103, R106): the strings of full groups of symbols whose final group may end in one or two pads, described group by group. -/

namespace Sys2Proof.Machine

/-- Full groups of symbols, the final one possibly with one or two pads for its last symbols. -/
inductive PaddedGroups : List Byte → Prop
  | nil : PaddedGroups []
  | onePad (i0 i1 i2 : Sym) : PaddedGroups [symToChar i0, symToChar i1, symToChar i2, Config.padChar]
  | twoPads (i0 i1 : Sym) : PaddedGroups [symToChar i0, symToChar i1, Config.padChar, Config.padChar]
  | symbols (i0 i1 i2 i3 : Sym) {rest : List Byte} (h : PaddedGroups rest) :
      PaddedGroups (symToChar i0 :: symToChar i1 :: symToChar i2 :: symToChar i3 :: rest)

/-- Symbols cut into groups of four leave no symbol, or two or three that their pads make a full group. -/
theorem paddedGroups_of_symbols_pads {p : Nat} (hp : p ≤ 2) : ∀ syms : List Sym, (syms.length + p) % 4 = 0 →
    PaddedGroups (syms.map symToChar ++ List.replicate p Config.padChar)
  | [], h => by
    obtain rfl : p = 0 := by simp only [List.length_nil] at h; omega
    exact .nil
  | [i0], h => by simp only [List.length_cons, List.length_nil] at h; omega
  | [i0, i1], h => by
    obtain rfl : p = 2 := by simp only [List.length_cons, List.length_nil] at h; omega
    exact .twoPads i0 i1
  | [i0, i1, i2], h => by
    obtain rfl : p = 1 := by simp only [List.length_cons, List.length_nil] at h; omega
    exact .onePad i0 i1 i2
  | i0 :: i1 :: i2 :: i3 :: syms, h =>
    .symbols i0 i1 i2 i3 (paddedGroups_of_symbols_pads hp syms (by simp only [List.length_cons] at h; omega))

theorem PaddedGroups.shape {str : List Byte} (h : PaddedGroups str) : str.length % 4 = 0 ∧ SymbolsThenPads str := by
  induction h with
  | nil => exact ⟨rfl, [], 0, by decide, rfl⟩
  | onePad i0 i1 i2 => exact ⟨by simp, [i0, i1, i2], 1, by decide, rfl⟩
  | twoPads i0 i1 => exact ⟨by simp, [i0, i1], 2, by decide, rfl⟩
  | symbols i0 i1 i2 i3 _ ih =>
    obtain ⟨hlen, hshape⟩ := ih
    exact ⟨by simp only [List.length_cons]; omega, hshape.symbols_append [i0, i1, i2, i3]⟩

/-- Group by group or at once: the same strings. -/
theorem paddedGroups_iff (str : List Byte) : PaddedGroups str ↔ str.length % 4 = 0 ∧ SymbolsThenPads str := by
  refine ⟨PaddedGroups.shape, ?_⟩
  rintro ⟨hlen, syms, p, hp, rfl⟩
  rw [List.length_append, List.length_map, List.length_replicate] at hlen
  exact paddedGroups_of_symbols_pads hp syms hlen

/-- What a group of four is that is accepted as final. -/
theorem PaddedGroups.group_cases {c0 c1 c2 c3 : Byte} (h : PaddedGroups [c0, c1, c2, c3]) :
    ∃ i0 i1, c0 = symToChar i0 ∧ c1 = symToChar i1 ∧
      ((∃ i2 i3, c2 = symToChar i2 ∧ c3 = symToChar i3) ∨ (∃ i2, c2 = symToChar i2 ∧ c3 = Config.padChar) ∨
        (c2 = Config.padChar ∧ c3 = Config.padChar)) := by
  generalize hgroup : [c0, c1, c2, c3] = str at h
  cases h with
  | nil => cases hgroup
  | onePad i0 i1 i2 | twoPads i0 i1 | symbols i0 i1 i2 i3 =>
    simp only [List.cons.injEq] at hgroup
    obtain ⟨h0, h1, h2, h3, -⟩ := hgroup
    exact ⟨i0, i1, h0, h1, by simp [h2, h3]⟩

/-- A final group without an error is one of symbols, or ends in one or two pads (R103). -/
theorem paddedGroups_of_last {c0 c1 c2 c3 : Byte} (h : (valUnit ⟨true, true, c0, c1, c2, c3⟩).err = false) :
    PaddedGroups [c0, c1, c2, c3] :=
  (paddedGroups_iff _).mpr ⟨by simp, symbolsThenPads_of_decUnit_last h⟩

end Sys2Proof.Machine
end

section
/-! PROOFS. The rules over a unit's operations (R83, R86, R101, R105, R126, R127, R172, R196, R197, R199): the units' outputs on groups of symbols and pads, which bits of a group its bytes hold, and unit E wired to V and to D. -/

namespace Sys2Proof.Machine

/-! ### The operations of each unit -/

/-- An operation of unit E drives unit E. -/
theorem exec_of_encoder {i : Instr} (h : i.unit = .encoder) (s : State) : ∃ e, exec i s = .next (s.driveE e) := by
  cases i with
  | enc0 => exact ⟨_, exec_enc0 ..⟩
  | enc1 => exact ⟨_, exec_enc1 ..⟩
  | enc2 => exact ⟨_, exec_enc2 ..⟩
  | enc3 => exact ⟨_, exec_enc3 ..⟩
  | _ => cases h

/-- An operation of unit V drives unit V. -/
theorem exec_of_validator {i : Instr} (h : i.unit = .validator) (s : State) : ∃ g, exec i s = .next (s.driveV g) := by
  cases i with
  | valMid => exact ⟨_, exec_valMid ..⟩
  | valLast => exact ⟨_, exec_valLast ..⟩
  | valShort => exact ⟨_, exec_valShort ..⟩
  | _ => cases h

/-! ### Groups of symbols and pads (R102, R103, R122, R123) -/

/-- What unit V answers on a full group without `BAD` characters. -/
theorem valUnit_of_not_bad {c0 c1 c2 c3 : Byte} (h : anyBad c0 c1 c2 c3 = false) (last : Bool) :
    valUnit ⟨true, last, c0, c1, c2, c3⟩ =
      if last then if padOk c0 c1 c2 c3 then ⟨false, 0b000, padCount c2 c3⟩ else ⟨true, 0b100, 0⟩
      else if anyPad c0 c1 c2 c3 then ⟨true, 0b100, 0⟩ else ⟨false, 0b000, 0⟩ := by
  cases last with
  | false =>
    rw [valUnit_mid, verdictMid_eq, h]
    cases anyPad c0 c1 c2 c3 <;> rfl
  | true =>
    rw [valUnit_last, verdictLast_eq, h]
    cases padOk c0 c1 c2 c3 <;> rfl

theorem valUnit_symbols (last : Bool) (i0 i1 i2 i3 : Sym) :
    valUnit ⟨true, last, symToChar i0, symToChar i1, symToChar i2, symToChar i3⟩ = ⟨false, 0, 0⟩ := by
  rw [valUnit_of_not_bad (by simp [anyBad])]
  simp [anyPad, padOk_eq, padCount]

theorem valUnit_one_pad (last : Bool) (i0 i1 i2 : Sym) :
    valUnit ⟨true, last, symToChar i0, symToChar i1, symToChar i2, Config.padChar⟩ =
      if last then ⟨false, 0, 1⟩ else ⟨true, 0b100, 0⟩ := by
  rw [valUnit_of_not_bad (by simp [anyBad])]
  simp [anyPad, padOk_eq, padCount]

theorem valUnit_two_pads (last : Bool) (i0 i1 : Sym) :
    valUnit ⟨true, last, symToChar i0, symToChar i1, Config.padChar, Config.padChar⟩ =
      if last then ⟨false, 0, 2⟩ else ⟨true, 0b100, 0⟩ := by
  rw [valUnit_of_not_bad (by simp [anyBad])]
  simp [anyPad, padOk_eq, padCount]

theorem decUnit_one_pad (last : Bool) (i0 i1 i2 : Sym) :
    decUnit ⟨true, last, symToChar i0, symToChar i1, symToChar i2, Config.padChar⟩ =
      if last then ⟨false, 0, 1, 2, byte0 (pack4 i0 i1 i2 0), byte1 (pack4 i0 i1 i2 0), 0x00⟩
      else ⟨true, 0b100, 0, 0, 0x00, 0x00, 0x00⟩ := by
  rw [decUnit_eq_gate, valUnit_one_pad]
  cases last <;> simp [gate, raiseInvalidD_eq, decCore]

theorem decUnit_two_pads (last : Bool) (i0 i1 : Sym) :
    decUnit ⟨true, last, symToChar i0, symToChar i1, Config.padChar, Config.padChar⟩ =
      if last then ⟨false, 0, 2, 1, byte0 (pack4 i0 i1 0 0), 0x00, 0x00⟩
      else ⟨true, 0b100, 0, 0, 0x00, 0x00, 0x00⟩ := by
  rw [decUnit_eq_gate, valUnit_two_pads]
  cases last <;> simp [gate, raiseInvalidD_eq, decCore]

/-- Unit E's filler is rejected for its characters (R84). -/
theorem valUnit_filler (last : Bool) : valUnit ⟨true, last, 0x00, 0x00, 0x00, 0x00⟩ = ⟨true, 0b001, 0⟩ := by
  revert last; decide

theorem decUnit_filler (last : Bool) :
    decUnit ⟨true, last, 0x00, 0x00, 0x00, 0x00⟩ = ⟨true, 0b001, 0, 0, 0x00, 0x00, 0x00⟩ := by
  revert last; decide

/-! ### The pad count of unit V (R105) -/

/-- A pad count is reported only on a full final group without an error. -/
theorem full_last_ok_of_pad_ne_zero {g : GroupIn} (h : (valUnit g).pad ≠ 0) :
    g.full = true ∧ g.last = true ∧ (valUnit g).err = false := by
  have hzero := mt (valUnit_legalStatus g).pad_zero h
  simp only [not_or, Bool.not_eq_true, Bool.not_eq_false] at hzero
  obtain ⟨herr, hlast, hfull⟩ := hzero
  exact ⟨hfull, hlast, herr⟩

/-- Where a pad count is reported the lanes are a padded final group. -/
theorem paddedGroups_of_pad_ne_zero {g : GroupIn} (h : (valUnit g).pad ≠ 0) :
    g.full = true ∧ g.last = true ∧ PaddedGroups [g.c0, g.c1, g.c2, g.c3] := by
  obtain ⟨full, last, c0, c1, c2, c3⟩ := g
  obtain ⟨rfl : full = true, rfl : last = true, herr⟩ := full_last_ok_of_pad_ne_zero h
  exact ⟨rfl, rfl, paddedGroups_of_last herr⟩

theorem valUnit_pad_eq_one_iff (g : GroupIn) : (valUnit g).pad = 1 ↔ g.full = true ∧ g.last = true ∧
    IsSymbol g.c0 ∧ IsSymbol g.c1 ∧ IsSymbol g.c2 ∧ classOf g.c3 = .pad := by
  obtain ⟨full, last, c0, c1, c2, c3⟩ := g
  constructor
  · intro h
    obtain ⟨rfl : full = true, rfl : last = true, hgroup⟩ := paddedGroups_of_pad_ne_zero (by rw [h]; decide)
    obtain ⟨i0, i1, rfl, rfl, ⟨i2, i3, rfl, rfl⟩ | ⟨i2, rfl, rfl⟩ | ⟨rfl, rfl⟩⟩ := hgroup.group_cases
    · rw [valUnit_symbols] at h; cases h
    · exact ⟨rfl, rfl, isSymbol_symToChar i0, isSymbol_symToChar i1, isSymbol_symToChar i2, classOf_padChar⟩
    · rw [valUnit_two_pads] at h; cases h
  · rintro ⟨rfl, rfl, ⟨i0, h0⟩, ⟨i1, h1⟩, ⟨i2, h2⟩, h3⟩
    obtain rfl := eq_symToChar_of_class h0
    obtain rfl := eq_symToChar_of_class h1
    obtain rfl := eq_symToChar_of_class h2
    obtain rfl : c3 = Config.padChar := (classOf_eq_pad_iff c3).mp h3
    rw [valUnit_one_pad]; rfl

theorem valUnit_pad_eq_two_iff (g : GroupIn) : (valUnit g).pad = 2 ↔ g.full = true ∧ g.last = true ∧
    IsSymbol g.c0 ∧ IsSymbol g.c1 ∧ classOf g.c2 = .pad ∧ classOf g.c3 = .pad := by
  obtain ⟨full, last, c0, c1, c2, c3⟩ := g
  constructor
  · intro h
    obtain ⟨rfl : full = true, rfl : last = true, hgroup⟩ := paddedGroups_of_pad_ne_zero (by rw [h]; decide)
    obtain ⟨i0, i1, rfl, rfl, ⟨i2, i3, rfl, rfl⟩ | ⟨i2, rfl, rfl⟩ | ⟨rfl, rfl⟩⟩ := hgroup.group_cases
    · rw [valUnit_symbols] at h; cases h
    · rw [valUnit_one_pad] at h; cases h
    · exact ⟨rfl, rfl, isSymbol_symToChar i0, isSymbol_symToChar i1, classOf_padChar, classOf_padChar⟩
  · rintro ⟨rfl, rfl, ⟨i0, h0⟩, ⟨i1, h1⟩, h2, h3⟩
    obtain rfl := eq_symToChar_of_class h0
    obtain rfl := eq_symToChar_of_class h1
    obtain rfl : c2 = Config.padChar := (classOf_eq_pad_iff c2).mp h2
    obtain rfl : c3 = Config.padChar := (classOf_eq_pad_iff c3).mp h3
    rw [valUnit_two_pads]; rfl

/-- Settles O10: a count is reported on padded final groups only, and their pads are what is counted. -/
theorem padOutputOfValidator : Obligations.PadOutputOfValidator := by
  unfold Obligations.PadOutputOfValidator
  intro i s hi
  obtain ⟨g, hg⟩ := exec_of_validator hi s
  exact ⟨_, hg, valUnit_pad_eq_one_iff g, valUnit_pad_eq_two_iff g, valUnit_pad_cases g⟩

/-! ### Errors and causes (R101, R121, R172) -/

theorem valUnit_err_eq_cause_bits (g : GroupIn) :
    (valUnit g).err =
      ((valUnit g).cause.getLsbD 0 || (valUnit g).cause.getLsbD 1 || (valUnit g).cause.getLsbD 2) := by
  obtain ⟨hchar, hlen, hpad⟩ := causeBits_getLsbD (charCause g) (lenCause g) (padCause g)
  simp only [valUnit, hchar, hlen, hpad]

/-- Settles O9: a full group has no cause `LEN` and a short one no other; a group for each cause. -/
theorem causeBitsOfValidator : Obligations.CauseBitsOfValidator := by
  unfold Obligations.CauseBitsOfValidator
  refine ⟨fun i s hi => ?_, ?_⟩
  · obtain ⟨g, hg⟩ := exec_of_validator hi s
    have hcauses := valUnit_causes g
    refine ⟨_, hg, valUnit_err_eq_cause_bits g, fun hfull => ?_, fun hfull => ?_⟩
    · exact (if_pos hfull).mp hcauses
    · exact (if_neg (Bool.eq_false_iff.mp hfull)).mp hcauses
  · rintro c (rfl | rfl | rfl | rfl | rfl)
    · exact ⟨.valMid 0x54 0x57 0x46 0x75, _, exec_valMid .., rfl⟩
    · exact ⟨.valLast 0x54 0x24 0x3D 0x3D, _, exec_valLast .., rfl⟩
    · exact ⟨.valMid 0x54 0x51 0x3D 0x3D, _, exec_valMid .., rfl⟩
    · exact ⟨.valMid 0x41 0x3D 0x24 0x41, _, exec_valMid .., rfl⟩
    · exact ⟨.valShort true 0x54 0x51 0x3D 0x2D, _, exec_valShort .., rfl⟩

/-- Settles O14: unit D's status outputs are unit V's function of the same inputs. -/
theorem decoderVerdictIsValidators : Obligations.DecoderVerdictIsValidators := by
  unfold Obligations.DecoderVerdictIsValidators
  exact fun c0 c1 c2 c3 last s s' =>
    ⟨⟨_, _, exec_valMid .., exec_decMid .., rfl, rfl, rfl⟩, ⟨_, _, exec_valLast .., exec_decLast .., rfl, rfl, rfl⟩,
      ⟨_, _, exec_valShort .., exec_decShort .., rfl, rfl, rfl⟩⟩

/-- Settles O18: a group with and one without the error for each operation that looks at its lanes. -/
theorem whichOperationsRaise : Obligations.WhichOperationsRaise := by
  unfold Obligations.WhichOperationsRaise
  refine ⟨fun s => ⟨_, exec_valMid .., rfl⟩, fun s => ⟨_, exec_valMid .., rfl⟩, fun s => ⟨_, exec_valLast .., rfl⟩,
    fun s => ⟨_, exec_valLast .., rfl⟩, fun s => ⟨_, exec_decMid .., rfl⟩, fun s => ⟨_, exec_decMid .., rfl⟩,
    fun s => ⟨_, exec_decLast .., rfl⟩, fun s => ⟨_, exec_decLast .., rfl⟩, fun last c0 c1 c2 c3 s => ⟨?_, ?_⟩,
    fun i s hi => ?_⟩
  · exact ⟨_, exec_valShort .., congrArg ValOut.err (valUnit_short ..)⟩
  · exact ⟨_, exec_decShort .., congrArg DecOut.err (decUnit_short ..)⟩
  · obtain ⟨e, he⟩ := exec_of_encoder hi s
    exact ⟨_, he, rfl, rfl⟩

/-- Settles O23: a padded final group has a pad, which is the error where the group is not final; a group valid as not final is one of symbols. -/
theorem flagDiscipline : Obligations.FlagDiscipline := by
  unfold Obligations.FlagDiscipline
  intro c0 c1 c2 c3 s
  have padded : (valUnit ⟨true, true, c0, c1, c2, c3⟩).pad ≠ 0 →
      valUnit ⟨true, false, c0, c1, c2, c3⟩ = ⟨true, 0b100, 0⟩ := by
    intro hpad
    obtain ⟨-, -, hgroup⟩ := paddedGroups_of_pad_ne_zero hpad
    obtain ⟨i0, i1, rfl, rfl, ⟨i2, i3, rfl, rfl⟩ | ⟨i2, rfl, rfl⟩ | ⟨rfl, rfl⟩⟩ := hgroup.group_cases
    · rw [valUnit_symbols] at hpad; exact absurd rfl hpad
    · exact valUnit_one_pad ..
    · exact valUnit_two_pads ..
  have unpadded : (valUnit ⟨true, false, c0, c1, c2, c3⟩).err = false →
      ∃ i0 i1 i2 i3, [c0, c1, c2, c3] = [i0, i1, i2, i3].map symToChar := symbols_of_decUnit_mid
  refine ⟨_, _, _, _, exec_valLast .., exec_valMid .., exec_decLast .., exec_decMid .., fun ⟨_, hpad⟩ => padded hpad,
    fun ⟨_, hpad⟩ => ?_, fun herr => ?_, fun herr => ?_⟩
  · have hmid := padded hpad
    exact (decUnit_of_err (congrArg ValOut.err hmid)).trans (congrArg (fun o => raiseInvalidD o.cause) hmid)
  · obtain ⟨i0, i1, i2, i3, hgroup⟩ := unpadded herr
    cases hgroup
    exact valUnit_symbols ..
  · obtain ⟨i0, i1, i2, i3, hgroup⟩ := unpadded herr
    cases hgroup
    exact (decUnit_symbols true i0 i1 i2 i3).trans (decUnit_symbols false i0 i1 i2 i3).symm

/-! ### Unit E's masked lanes (R63, R83, R197) -/

/-- Settles O3: the masked lanes leave zeros in the second field, so it has four values. -/
theorem enc1DrivesTwoSymbolsAndPads : Obligations.Enc1DrivesTwoSymbolsAndPads := by
  unfold Obligations.Enc1DrivesTwoSymbolsAndPads
  have chars : ∀ l : BitVec 2, symToChar (l ++ 0b0000#4) = 0x41#8 ∨ symToChar (l ++ 0b0000#4) = 0x51#8 ∨
      symToChar (l ++ 0b0000#4) = 0x67#8 ∨ symToChar (l ++ 0b0000#4) = 0x77#8 := by decide
  refine ⟨fun b0 b1 b2 s => ?_, fun b0 b1 b2 s => ⟨_, exec_enc1 .., ?_⟩,
    fun b1 b2 s => ⟨_, exec_enc1 .., (encUnit_one 0xFF b1 b2).trans (by decide)⟩,
    fun b1 b2 s => ⟨_, exec_enc1 .., (encUnit_one 0x00 b1 b2).trans (by decide)⟩,
    fun b1 b2 s => ⟨_, exec_enc1 .., (encUnit_one 0x4D b1 b2).trans (by decide)⟩⟩
  · rw [exec_enc1, State.driveE, encUnit_one, field0_pack3, field1_pack3]; rfl
  · rw [State.driveE, State.putE_encOut, encUnit_one, field1_pack3]
    exact chars _

/-- Settles O21: the masked lanes do not reach unit E's outputs, and a short group's outputs are constants. -/
theorem ignoredLanesHaveNoEffect : Obligations.IgnoredLanesHaveNoEffect := by
  unfold Obligations.IgnoredLanesHaveNoEffect
  exact fun b0 b1 b2 x0 x1 x2 c0 c1 c2 c3 d0 d1 d2 d3 l l' s s' =>
    ⟨⟨_, _, exec_enc2 .., exec_enc2 .., (encUnit_two b0 b1 b2).trans (encUnit_two b0 b1 x2).symm⟩,
      ⟨_, _, exec_enc1 .., exec_enc1 .., (encUnit_one b0 b1 b2).trans (encUnit_one b0 x1 x2).symm⟩,
      ⟨_, _, exec_enc0 .., exec_enc0 .., (encUnit_zero b0 b1 b2).trans (encUnit_zero x0 x1 x2).symm⟩,
      ⟨_, _, exec_valShort .., exec_valShort .., (valUnit_short ..).trans (valUnit_short ..).symm⟩,
      ⟨_, _, exec_decShort .., exec_decShort .., (decUnit_short ..).trans (decUnit_short ..).symm⟩⟩

/-- Settles O22: a masked lane is a zero byte of the packed value. -/
theorem shorterLengthDropsBytes : Obligations.ShorterLengthDropsBytes := by
  unfold Obligations.ShorterLengthDropsBytes
  exact fun b0 b1 b2 s =>
    ⟨⟨_, _, exec_enc2 .., exec_enc3 .., rfl, rfl, rfl⟩, ⟨_, _, exec_enc1 .., exec_enc3 .., rfl, rfl⟩⟩

/-! ### The bits that pads discard (R126) -/

theorem append_eq_iff {n m : Nat} (x : BitVec n) (y : BitVec m) (z : BitVec (n + m)) :
    x ++ y = z ↔ x = z.extractLsb' m n ∧ y = z.extractLsb' 0 m := by
  constructor
  · rintro rfl
    exact ⟨BitVec.extractLsb'_append_eq_left.symm, BitVec.extractLsb'_append_eq_right.symm⟩
  · rintro ⟨rfl, rfl⟩
    exact BitVec.extractLsb'_append_extractLsb'

/-- The top bits say nothing of the bits below. -/
theorem extractLsb'_eq_iff_exists_append {n m : Nat} (z : BitVec (n + m)) (x : BitVec n) :
    z.extractLsb' m n = x ↔ ∃ k : BitVec m, z = x ++ k := by
  constructor
  · rintro rfl
    exact ⟨_, BitVec.extractLsb'_append_extractLsb'.symm⟩
  · rintro ⟨k, rfl⟩
    exact BitVec.extractLsb'_append_eq_left

/-- A first byte fixes the first symbol and two bits of the second (R62). -/
theorem byte0_pack4_eq_iff (i0 i1 i2 i3 : Sym) (b : Byte) :
    byte0 (pack4 i0 i1 i2 i3) = b ↔ i0 = b.extractLsb' 2 6 ∧ i1.extractLsb' 4 2 = b.extractLsb' 0 2 := by
  rw [byte0_pack4]
  exact append_eq_iff i0 (i1.extractLsb' 4 2) b

/-- A second byte fixes four bits of the second symbol and four of the third (R62). -/
theorem byte1_pack4_eq_iff (i0 i1 i2 i3 : Sym) (b : Byte) :
    byte1 (pack4 i0 i1 i2 i3) = b ↔
      i1.extractLsb' 0 4 = b.extractLsb' 4 4 ∧ i2.extractLsb' 2 4 = b.extractLsb' 0 4 := by
  rw [byte1_pack4]
  exact append_eq_iff (i1.extractLsb' 0 4) (i2.extractLsb' 2 4) b

/-- One byte leaves four bits of the second symbol free. -/
theorem one_byte_iff (i0 i1 i2 i3 : Sym) (b : Byte) :
    byte0 (pack4 i0 i1 i2 i3) = b ↔ i0 = b.extractLsb' 2 6 ∧ ∃ k : BitVec 4, i1 = b.extractLsb' 0 2 ++ k := by
  rw [byte0_pack4_eq_iff]
  exact and_congr_right fun _ => extractLsb'_eq_iff_exists_append (n := 2) (m := 4) i1 (b.extractLsb' 0 2)

/-- Two bytes leave two bits of the third symbol free. -/
theorem two_bytes_iff (i0 i1 i2 i3 : Sym) (b b' : Byte) :
    (byte0 (pack4 i0 i1 i2 i3) = b ∧ byte1 (pack4 i0 i1 i2 i3) = b') ↔
      i0 = b.extractLsb' 2 6 ∧ i1 = b.extractLsb' 0 2 ++ b'.extractLsb' 4 4 ∧
        ∃ k : BitVec 2, i2 = b'.extractLsb' 0 4 ++ k := by
  have hsecond : i1 = b.extractLsb' 0 2 ++ b'.extractLsb' 4 4 ↔
      i1.extractLsb' 4 2 = b.extractLsb' 0 2 ∧ i1.extractLsb' 0 4 = b'.extractLsb' 4 4 := by
    rw [eq_comm, eq_comm (b := b.extractLsb' 0 2), eq_comm (b := b'.extractLsb' 4 4)]
    exact append_eq_iff (b.extractLsb' 0 2) (b'.extractLsb' 4 4) i1
  have hthird : i2.extractLsb' 2 4 = b'.extractLsb' 0 4 ↔ ∃ k : BitVec 2, i2 = b'.extractLsb' 0 4 ++ k :=
    extractLsb'_eq_iff_exists_append (n := 4) (m := 2) i2 (b'.extractLsb' 0 4)
  rw [byte0_pack4_eq_iff, byte1_pack4_eq_iff, hsecond, ← hthird, and_assoc, and_assoc]

theorem decUnit_eq_one_byte_iff (c0 c1 b : Byte) :
    decUnit ⟨true, true, c0, c1, Config.padChar, Config.padChar⟩ = ⟨false, 0b000, 2, 1, b, 0x00, 0x00⟩ ↔
      c0 = symToChar (b.extractLsb' 2 6) ∧ ∃ k : BitVec 4, c1 = symToChar (b.extractLsb' 0 2 ++ k) := by
  constructor
  · intro h
    obtain ⟨-, -, ⟨i0, h0⟩, ⟨i1, h1⟩, -⟩ := (valUnit_pad_eq_two_iff _).mp (congrArg DecOut.pad h)
    obtain rfl := eq_symToChar_of_class h0
    obtain rfl := eq_symToChar_of_class h1
    rw [decUnit_two_pads] at h
    obtain ⟨rfl, k, rfl⟩ := (one_byte_iff i0 i1 0 0 b).mp (congrArg DecOut.b0 h)
    exact ⟨rfl, k, rfl⟩
  · rintro ⟨rfl, k, rfl⟩
    rw [decUnit_two_pads, (one_byte_iff _ _ _ _ b).mpr ⟨rfl, k, rfl⟩]; rfl

theorem decUnit_eq_two_bytes_iff (c0 c1 c2 b b' : Byte) :
    decUnit ⟨true, true, c0, c1, c2, Config.padChar⟩ = ⟨false, 0b000, 1, 2, b, b', 0x00⟩ ↔
      c0 = symToChar (b.extractLsb' 2 6) ∧ c1 = symToChar (b.extractLsb' 0 2 ++ b'.extractLsb' 4 4) ∧
        ∃ k : BitVec 2, c2 = symToChar (b'.extractLsb' 0 4 ++ k) := by
  constructor
  · intro h
    obtain ⟨-, -, ⟨i0, h0⟩, ⟨i1, h1⟩, ⟨i2, h2⟩, -⟩ := (valUnit_pad_eq_one_iff _).mp (congrArg DecOut.pad h)
    obtain rfl := eq_symToChar_of_class h0
    obtain rfl := eq_symToChar_of_class h1
    obtain rfl := eq_symToChar_of_class h2
    rw [decUnit_one_pad] at h
    obtain ⟨rfl, rfl, k, rfl⟩ :=
      (two_bytes_iff i0 i1 i2 0 b b').mp ⟨congrArg DecOut.b0 h, congrArg DecOut.b1 h⟩
    exact ⟨rfl, rfl, k, rfl⟩
  · rintro ⟨rfl, rfl, k, rfl⟩
    obtain ⟨h0, h1⟩ := (two_bytes_iff _ _ _ 0 b b').mpr ⟨rfl, rfl, k, rfl⟩
    rw [decUnit_one_pad, h0, h1]; rfl

/-- Settles O16: the bytes fix all bits of the symbols but those below the last byte. -/
theorem discardedBitsAreFree : Obligations.DiscardedBitsAreFree := by
  unfold Obligations.DiscardedBitsAreFree
  exact ⟨fun c0 c1 b s => ⟨_, exec_decLast .., decUnit_eq_one_byte_iff c0 c1 b⟩,
    fun c0 c1 c2 b b' s => ⟨_, exec_decLast .., decUnit_eq_two_bytes_iff c0 c1 c2 b b'⟩⟩

/-! ### Unit E's characters in V and D (R86, R127, R199) -/

/-- The first byte is in the first two fields. -/
theorem byte0_pack4_fields (v : Packed) (i2 i3 : Sym) : byte0 (pack4 (field0 v) (field1 v) i2 i3) = byte0 v := by
  rw [byte0_pack4, ← byte0_pack4 _ _ (field2 v) (field3 v), pack4_fields]

/-- The second byte is in the second and the third field. -/
theorem byte1_pack4_fields (v : Packed) (i3 : Sym) :
    byte1 (pack4 (field0 v) (field1 v) (field2 v) i3) = byte1 v := by
  rw [byte1_pack4, ← byte1_pack4 (field0 v) _ _ (field3 v), pack4_fields]

/-- Unit V behind unit E: E's filler has a `BAD` character, and its pads are accepted where the group is final. -/
theorem valUnit_wired (len : BitVec 2) (b0 b1 b2 : Byte) (full last : Bool) :
    valUnit ((encUnit ⟨len, b0, b1, b2⟩).wired full last) =
      if full = false then ⟨true, 0b010, 0⟩ else if len = 0 then ⟨true, 0b001, 0⟩
      else if last then ⟨false, 0b000, 3 - len⟩ else if len = 3 then ⟨false, 0b000, 0⟩ else ⟨true, 0b100, 0⟩ := by
  cases full with
  | false => exact valUnit_short ..
  | true =>
    obtain rfl | rfl | rfl | rfl := len_cases len
    · rw [encUnit_zero, EncOut.wired, valUnit_filler]; rfl
    · rw [encUnit_one, EncOut.wired, valUnit_two_pads]
      cases last <;> rfl
    · rw [encUnit_two, EncOut.wired, valUnit_one_pad]
      cases last <;> rfl
    · rw [encUnit_three, EncOut.wired, valUnit_symbols]
      cases last <;> rfl

/-- Unit D behind unit E: the bytes of the length come back where V's verdict is no error. -/
theorem decUnit_wired (len : BitVec 2) (b0 b1 b2 : Byte) (full last : Bool) :
    decUnit ((encUnit ⟨len, b0, b1, b2⟩).wired full last) =
      if full = false then ⟨true, 0b010, 0, 0, 0x00, 0x00, 0x00⟩
      else if len = 0 then ⟨true, 0b001, 0, 0, 0x00, 0x00, 0x00⟩
      else if len = 3 then ⟨false, 0b000, 0, 3, b0, b1, b2⟩
      else if last = false then ⟨true, 0b100, 0, 0, 0x00, 0x00, 0x00⟩
      else if len = 2 then ⟨false, 0b000, 1, 2, b0, b1, 0x00⟩
      else ⟨false, 0b000, 2, 1, b0, 0x00, 0x00⟩ := by
  cases full with
  | false => exact decUnit_short ..
  | true =>
    obtain rfl | rfl | rfl | rfl := len_cases len
    · rw [encUnit_zero, EncOut.wired, decUnit_filler]; rfl
    · rw [encUnit_one, EncOut.wired, decUnit_two_pads, byte0_pack4_fields, byte0_pack3]
      cases last <;> rfl
    · rw [encUnit_two, EncOut.wired, decUnit_one_pad, byte0_pack4_fields, byte1_pack4_fields, byte0_pack3, byte1_pack3]
      cases last <;> rfl
    · rw [encUnit_three, EncOut.wired, decUnit_symbols, pack4_fields, byte0_pack3, byte1_pack3, byte2_pack3]; rfl

section
variable (b0 b1 b2 : Byte) (last : Bool)

/-- Three bytes come back, final or not. -/
theorem decUnit_wired_three : decUnit ((encUnit ⟨3, b0, b1, b2⟩).wired true last) = ⟨false, 0b000, 0, 3, b0, b1, b2⟩ :=
  decUnit_wired 3 b0 b1 b2 true last

theorem decUnit_wired_two : decUnit ((encUnit ⟨2, b0, b1, b2⟩).wired true true) = ⟨false, 0b000, 1, 2, b0, b1, 0x00⟩ :=
  decUnit_wired 2 b0 b1 b2 true true

theorem decUnit_wired_one : decUnit ((encUnit ⟨1, b0, b1, b2⟩).wired true true) = ⟨false, 0b000, 2, 1, b0, 0x00, 0x00⟩ :=
  decUnit_wired 1 b0 b1 b2 true true

end

/-- Settles O5: the lanes are symbols and pads, or filler, and V and D behind E accept them. -/
theorem encoderOutputClasses : Obligations.EncoderOutputClasses := by
  unfold Obligations.EncoderOutputClasses
  refine fun b0 b1 b2 s => ⟨⟨_, exec_enc3 .., rfl, ?_⟩, ⟨_, exec_enc2 .., rfl, ?_⟩, ⟨_, exec_enc1 .., rfl, ?_⟩,
    ⟨_, exec_enc0 .., rfl, classOf_filler, classOf_filler, classOf_filler, classOf_filler⟩⟩
  · have hd (last : Bool) := decUnit_wired_three b0 b1 b2 last
    exact ⟨isSymbol_symToChar _, isSymbol_symToChar _, isSymbol_symToChar _, isSymbol_symToChar _,
      ⟨_, exec_valLast .., valUnit_wired 3 b0 b1 b2 true true⟩,
      ⟨_, exec_decLast .., congrArg DecOut.err (hd true), congrArg DecOut.pad (hd true)⟩,
      ⟨_, exec_valMid .., valUnit_wired 3 b0 b1 b2 true false⟩, ⟨_, exec_decMid .., congrArg DecOut.err (hd false)⟩⟩
  · have hd := decUnit_wired_two b0 b1 b2
    exact ⟨isSymbol_symToChar _, isSymbol_symToChar _, isSymbol_symToChar _, classOf_padChar,
      ⟨_, exec_valLast .., valUnit_wired 2 b0 b1 b2 true true⟩,
      ⟨_, exec_decLast .., congrArg DecOut.err hd, congrArg DecOut.pad hd⟩⟩
  · have hd := decUnit_wired_one b0 b1 b2
    exact ⟨isSymbol_symToChar _, isSymbol_symToChar _, classOf_padChar, classOf_padChar,
      ⟨_, exec_valLast .., valUnit_wired 1 b0 b1 b2 true true⟩,
      ⟨_, exec_decLast .., congrArg DecOut.err hd, congrArg DecOut.pad hd⟩⟩

/-- Settles O17: on E's characters unit D is D wired behind E. -/
theorem groupRoundTrip : Obligations.GroupRoundTrip := by
  unfold Obligations.GroupRoundTrip
  exact fun b0 b1 b2 y z s =>
    ⟨⟨_, exec_enc3 .., ⟨_, exec_decMid .., decUnit_wired_three b0 b1 b2 false⟩,
        ⟨_, exec_decLast .., decUnit_wired_three b0 b1 b2 true⟩⟩,
      ⟨_, exec_enc2 .., rfl, _, exec_decLast .., decUnit_wired_two b0 b1 y⟩,
      ⟨_, exec_enc1 .., rfl, rfl, _, exec_decLast .., decUnit_wired_one b0 y z⟩⟩

/-- What unit D drives when it is presented with E's characters. -/
theorem State.present_loopBack_decOut (last : Bool) (t : State) :
    (t.present (loopBack last t)).decOut = decUnit (t.encOut.wired true last) := by
  rw [loopBack, State.wireToD, State.present_d_gin]; rfl

/-- Settles O54: what is presented to D are the lanes of the wiring, and a step leaves them. -/
theorem loopBackComposesUnits : Obligations.LoopBackComposesUnits := by
  unfold Obligations.LoopBackComposesUnits
  have hloop (e : EncIn) (last : Bool) (o : DecOut) (s : State)
      (h : decUnit ((encUnit e).wired true last) = o) :
      ∃ u, step ((s.driveE e).present (loopBack last (s.driveE e))) = .next u ∧
        u.encOut = (s.driveE e).encOut ∧ u.decOut = o :=
    ⟨_, step_present .., rfl, (State.present_loopBack_decOut last _).trans h⟩
  exact fun b0 b1 b2 s =>
    ⟨⟨_, evaluate_enc3 .., fun last => hloop _ _ _ s (decUnit_wired_three b0 b1 b2 last)⟩,
      ⟨_, evaluate_enc2 .., hloop _ _ _ s (decUnit_wired_two b0 b1 b2),
        hloop _ _ _ s (decUnit_wired 2 b0 b1 b2 true false)⟩,
      ⟨_, evaluate_enc1 .., hloop _ _ _ s (decUnit_wired_one b0 b1 b2),
        hloop _ _ _ s (decUnit_wired 1 b0 b1 b2 true false)⟩⟩

theorem step_presentThroughV (x : BitVec 26) (full last : Bool) (s : State) :
    step (s.presentThroughV x full last) = .next (s.presentThroughV x full last) :=
  step_present ((s.present (.e x)).wireToV full last) _

theorem step_presentThroughD (x : BitVec 26) (full last : Bool) (s : State) :
    step (s.presentThroughD x full last) = .next (s.presentThroughD x full last) :=
  step_present ((s.present (.e x)).wireToD full last) _

/-- Settles O59: the wired unit's inputs are E's characters, so its outputs are the composed function, and they are settled. -/
theorem wiredUnitsCompose : Obligations.WiredUnitsCompose := by
  unfold Obligations.WiredUnitsCompose
  intro len b0 b1 b2 full last s x v d
  have hin : EncIn.ofEin x = ⟨len, b0, b1, b2⟩ := EncIn.ofEin_ein ⟨len, b0, b1, b2⟩
  have hv : v.valIn = (encUnit ⟨len, b0, b1, b2⟩).wired full last := by
    rw [← hin]; exact State.presentThroughV_valIn x full last s
  have hd : d.decIn = (encUnit ⟨len, b0, b1, b2⟩).wired full last := by
    rw [← hin]; exact State.presentThroughD_decIn x full last s
  have hve : v.encOut = encUnit ⟨len, b0, b1, b2⟩ := by rw [← hin]; rfl
  have hde : d.encOut = encUnit ⟨len, b0, b1, b2⟩ := by rw [← hin]; rfl
  refine ⟨hve, hde, ?_, ?_, rfl, rfl, step_presentThroughV .., step_presentThroughD .., ?_, ?_⟩
  · rw [hv, hve]; rfl
  · rw [hd, hde]; rfl
  · exact (congrArg valUnit hv).trans (valUnit_wired ..)
  · exact (congrArg decUnit hd).trans (decUnit_wired ..)

end Sys2Proof.Machine
end

section
/-! PROOFS. The evaluations the environment makes (R140, R143, R146): how a sequence is cut into groups, by recursion on the group in front. -/

namespace Sys2Proof.Machine

/-! ### ENCODE (R140) -/

theorem length_encodeOps (y1 y2 : Byte) : ∀ x : List Byte, (encodeOps y1 y2 x).length = (x.length + 2) / 3
  | [] | [_] | [_, _] => by simp
  | a :: b :: c :: rest => by
    rw [encodeOps_three, List.length_cons, length_encodeOps y1 y2 rest]
    simp only [List.length_cons]
    omega

/-- `ENC3` may stand in front of any encoder stream, and alone. -/
theorem encodeStreamWf_enc3_cons (a b c : Byte) (ops : List Instr) :
    encodeStreamWf (.enc3 a b c :: ops) = encodeStreamWf ops := by
  cases ops <;> rfl

theorem encodeStreamWf_encodeOps (y1 y2 : Byte) : ∀ x : List Byte, encodeStreamWf (encodeOps y1 y2 x) = true
  | [] | [_] | [_, _] => rfl
  | a :: b :: c :: rest => by
    rw [encodeOps_three, encodeStreamWf_enc3_cons, encodeStreamWf_encodeOps y1 y2 rest]

theorem getElem?_encodeOps (y1 y2 : Byte) : ∀ (x : List Byte) (g : Nat), 3 * g < x.length →
    (encodeOps y1 y2 x)[g]? = some
      (if 3 * g + 2 < x.length then .enc3 (x.getD (3 * g) 0) (x.getD (3 * g + 1) 0) (x.getD (3 * g + 2) 0)
       else if 3 * g + 1 < x.length then .enc2 (x.getD (3 * g) 0) (x.getD (3 * g + 1) 0) y2
       else .enc1 (x.getD (3 * g) 0) y1 y2)
  | [], _, h => absurd h (Nat.not_lt_zero _)
  | [a], g, h | [a, b], g, h => by
    obtain rfl : g = 0 := by simp only [List.length_cons, List.length_nil] at h; omega
    rfl
  | a :: b :: c :: rest, 0, _ => by rw [if_pos (by simp)]; rfl
  | a :: b :: c :: rest, g + 1, h => by
    have hthree : 3 * (g + 1) + 2 < (a :: b :: c :: rest).length ↔ 3 * g + 2 < rest.length := by
      simp only [List.length_cons]; omega
    have htwo : 3 * (g + 1) + 1 < (a :: b :: c :: rest).length ↔ 3 * g + 1 < rest.length := by
      simp only [List.length_cons]; omega
    have hg : 3 * g < rest.length := by simp only [List.length_cons] at h; omega
    rw [encodeOps_three, List.getElem?_cons_succ, getElem?_encodeOps y1 y2 rest g hg]
    simp only [hthree, htwo]; rfl

/-- Settles O43: the first group takes three bytes, and what is left is a shorter sequence. -/
theorem encodeOpsFollowContract : Obligations.EncodeOpsFollowContract := by
  unfold Obligations.EncodeOpsFollowContract
  exact fun y1 y2 x => ⟨length_encodeOps y1 y2 x, encodeStreamWf_encodeOps y1 y2 x, getElem?_encodeOps y1 y2 x⟩

/-! ### DECODE and the validation-only pass (R143) -/

section Groups
variable (mid fin short : Byte → Byte → Byte → Byte → Instr) (z1 z2 z3 : Byte)

theorem length_groupOps : ∀ str : List Byte, (groupOps mid fin short z1 z2 z3 str).length = (str.length + 3) / 4
  | [] | [_] | [_, _] | [_, _, _] | [_, _, _, _] => by simp
  | a :: b :: c :: d :: e :: rest => by
    rw [groupOps_more, List.length_cons, length_groupOps (e :: rest)]
    simp only [List.length_cons]
    omega

theorem getElem?_groupOps : ∀ (str : List Byte) (g : Nat), 4 * g < str.length →
    (groupOps mid fin short z1 z2 z3 str)[g]? = some
      (if 4 * g + 4 < str.length then
        mid (str.getD (4 * g) 0) (str.getD (4 * g + 1) z1) (str.getD (4 * g + 2) z2) (str.getD (4 * g + 3) z3)
       else if 4 * g + 3 < str.length then
        fin (str.getD (4 * g) 0) (str.getD (4 * g + 1) z1) (str.getD (4 * g + 2) z2) (str.getD (4 * g + 3) z3)
       else short (str.getD (4 * g) 0) (str.getD (4 * g + 1) z1) (str.getD (4 * g + 2) z2) (str.getD (4 * g + 3) z3))
  | [], _, h => absurd h (Nat.not_lt_zero _)
  | [a], g, h | [a, b], g, h | [a, b, c], g, h | [a, b, c, d], g, h => by
    obtain rfl : g = 0 := by simp only [List.length_cons, List.length_nil] at h; omega
    rfl
  | a :: b :: c :: d :: e :: rest, 0, _ => by rw [if_pos (by simp)]; rfl
  | a :: b :: c :: d :: e :: rest, g + 1, h => by
    have hmore : 4 * (g + 1) + 4 < (a :: b :: c :: d :: e :: rest).length ↔ 4 * g + 4 < (e :: rest).length := by
      simp only [List.length_cons]; omega
    have hfull : 4 * (g + 1) + 3 < (a :: b :: c :: d :: e :: rest).length ↔ 4 * g + 3 < (e :: rest).length := by
      simp only [List.length_cons]; omega
    have hg : 4 * g < (e :: rest).length := by simp only [List.length_cons] at h ⊢; omega
    rw [groupOps_more, List.getElem?_cons_succ, getElem?_groupOps (e :: rest) g hg]
    simp only [hmore, hfull]; rfl

theorem checkStreamWf_cons {u : UnitId} {i : Instr} {ops : List Instr} (hi : i.checksMiddle u = true)
    (hne : ops ≠ []) (hops : checkStreamWf u ops = true) : checkStreamWf u (i :: ops) = true := by
  cases ops with
  | nil => exact absurd rfl hne
  | cons j rest => rw [checkStreamWf, hi, hops]; rfl

theorem groupOps_ne_nil (a : Byte) (rest : List Byte) : groupOps mid fin short z1 z2 z3 (a :: rest) ≠ [] := by
  refine List.ne_nil_of_length_pos ?_
  rw [length_groupOps, List.length_cons]
  omega

variable {mid fin short}

theorem checkStreamWf_groupOps {u : UnitId} (hmid : ∀ a b c d, (mid a b c d).checksMiddle u = true)
    (hfin : ∀ a b c d, (fin a b c d).checksFinal u = true) (hshort : ∀ a b c d, (short a b c d).checksFinal u = true) :
    ∀ str : List Byte, checkStreamWf u (groupOps mid fin short z1 z2 z3 str) = true
  | [] => rfl
  | [_] | [_, _] | [_, _, _] => hshort ..
  | [_, _, _, _] => hfin ..
  | _ :: _ :: _ :: _ :: e :: rest =>
    checkStreamWf_cons (hmid ..) (groupOps_ne_nil _ _ _ z1 z2 z3 e rest) (checkStreamWf_groupOps hmid hfin hshort (e :: rest))

end Groups

/-- Settles O44: both units' streams are the same cut of the string into groups. -/
theorem decodeOpsFollowContract : Obligations.DecodeOpsFollowContract := by
  unfold Obligations.DecodeOpsFollowContract
  intro z1 z2 z3 str
  have hdec : checkStreamWf .decoder (decodeOps z1 z2 z3 str) = true :=
    checkStreamWf_groupOps z1 z2 z3 (fun _ _ _ _ => rfl) (fun _ _ _ _ => rfl) (fun _ _ _ _ => rfl) str
  have hval : checkStreamWf .validator (validateOps z1 z2 z3 str) = true :=
    checkStreamWf_groupOps z1 z2 z3 (fun _ _ _ _ => rfl) (fun _ _ _ _ => rfl) (fun _ _ _ _ => rfl) str
  exact ⟨length_groupOps .., hdec, hval,
    fun g hg => ⟨getElem?_groupOps _ _ _ z1 z2 z3 str g hg, getElem?_groupOps _ _ _ z1 z2 z3 str g hg⟩⟩

end Sys2Proof.Machine
end

section
/-! PROOFS. DECODE as the source's decode and what it discards (R106, R144 to R150), and the software around the block (R156 to R159). -/

namespace Sys2Proof.Machine

/-! ### Symbols, then at most two pads (R106) -/

/-- A list of symbols' characters is written by a list of symbols. -/
theorem exists_symbols {l : List Byte} (h : ∀ c ∈ l, IsSymbol c) : ∃ syms : List Sym, l = syms.map symToChar := by
  have hrange : l ∈ Set.range (List.map symToChar) := by
    rw [Set.range_list_map]
    exact fun c hc => (h c hc).imp fun _ hi => (eq_symToChar_of_class hi).symm
  exact hrange.imp fun _ => Eq.symm

theorem isSymbol_of_not_bad {c : Byte} (hbad : classOf c ≠ .bad) (hpad : c ≠ Config.padChar) : IsSymbol c := by
  cases hc : classOf c with
  | sym i => exact ⟨i, hc⟩
  | pad => exact absurd ((classOf_eq_pad_iff c).mp hc) hpad
  | bad => exact absurd hc hbad

/-- The shape of an accepted string as R106 words it. -/
theorem symbolsThenPads_iff (str : List Byte) : SymbolsThenPads str ↔ (∀ c ∈ str, classOf c ≠ .bad) ∧
    ∃ (body : List Byte) (p : Nat), p ≤ 2 ∧ str = body ++ List.replicate p Config.padChar ∧ Config.padChar ∉ body := by
  constructor
  · intro h
    refine ⟨fun c => h.not_bad, ?_⟩
    obtain ⟨syms, p, hp, rfl⟩ := h
    exact ⟨_, p, hp, rfl, padChar_not_mem_symbols syms⟩
  · rintro ⟨hbad, body, p, hp, rfl, hbody⟩
    obtain ⟨syms, rfl⟩ := exists_symbols fun c hc =>
      isSymbol_of_not_bad (hbad c (List.mem_append_left _ hc)) fun h => hbody (h ▸ hc)
    exact ⟨syms, p, hp, rfl⟩

/-- What DECODE decodes are padded groups. -/
theorem paddedGroups_of_decodeGroups {str x : List Byte} (h : decodeGroups str = .ok x) : PaddedGroups str :=
  (paddedGroups_iff str).mpr (shape_of_decodeGroups_ok h)

/-! ### The source's validation (R106, R149) -/

/-- Of pads behind anything that holds none, all are trailing. -/
theorem trailingPads_append {body : List Byte} (h : Config.padChar ∉ body) (p : Nat) :
    trailingPads (body ++ List.replicate p Config.padChar) = p := by
  have hbody : body.reverse.takeWhile (fun c => c == Config.padChar) = [] := by
    refine List.takeWhile_eq_nil_iff.mpr fun hl hpad => h ?_
    rw [← eq_of_beq hpad]
    exact List.mem_reverse.mp (List.getElem_mem hl)
  rw [trailingPads, List.reverse_append, List.reverse_replicate, List.takeWhile_append_of_pos (by simp), hbody]
  simp

/-- A string ends in its trailing pads. -/
theorem exists_body (str : List Byte) : ∃ body, str = body ++ List.replicate (trailingPads str) Config.padChar := by
  have hpads : str.rtakeWhile (fun c => c == Config.padChar) = List.replicate (trailingPads str) Config.padChar := by
    have hall := List.eq_replicate_of_mem fun c (hc : c ∈ str.rtakeWhile (fun c => c == Config.padChar)) =>
      eq_of_beq (List.mem_rtakeWhile_imp (p := fun c => c == Config.padChar) hc)
    rwa [List.rtakeWhile, List.length_reverse] at hall
  exact ⟨_, hpads ▸ List.rdropWhile_append_rtakeWhile.symm⟩

theorem symToChar_mem_alpha (i : Sym) : symToChar i ∈ alpha := by
  have hi : i.toNat < alpha.length := i.isLt
  rw [symToChar, List.getD_eq_getElem _ _ hi]
  exact List.getElem_mem hi

/-- The characters the source knows are those of a class (R53). -/
theorem contains_or_pad_iff (c : Byte) : (alpha.contains c || c == Config.padChar) = true ↔ classOf c ≠ .bad := by
  rw [Bool.or_eq_true, List.contains_iff_mem, beq_iff_eq]
  constructor
  · have halpha : ∀ c ∈ alpha, classOf c ≠ .bad := by decide
    rintro (hmem | rfl)
    · exact halpha c hmem
    · simp
  · intro hbad
    by_cases hpad : c = Config.padChar
    · exact .inr hpad
    · obtain ⟨i, hi⟩ := isSymbol_of_not_bad hbad hpad
      exact .inl (eq_symToChar_of_class hi ▸ symToChar_mem_alpha i)

/-- At most two pads, all trailing. -/
theorem count_eq_trailingPads_iff (str : List Byte) :
    (str.count Config.padChar = trailingPads str ∧ trailingPads str ≤ 2) ↔
      ∃ (body : List Byte) (p : Nat), p ≤ 2 ∧ str = body ++ List.replicate p Config.padChar ∧ Config.padChar ∉ body := by
  constructor
  · rintro ⟨hcount, hle⟩
    obtain ⟨body, hstr⟩ := exists_body str
    refine ⟨body, _, hle, hstr, List.count_eq_zero.mp ?_⟩
    have hsum := congrArg (List.count Config.padChar) hstr
    rw [List.count_append, List.count_replicate_self] at hsum
    omega
  · rintro ⟨body, p, hp, rfl, hbody⟩
    rw [trailingPads_append hbody, List.count_append, List.count_eq_zero.mpr hbody, List.count_replicate_self]
    exact ⟨Nat.zero_add p, hp⟩

/-- The source's validation accepts the padded groups. -/
theorem sourceValid_iff (str : List Byte) : sourceValid str = true ↔ PaddedGroups str := by
  rw [paddedGroups_iff, symbolsThenPads_iff, ← count_eq_trailingPads_iff]
  simp only [sourceValid, Bool.and_eq_true, decide_eq_true_eq, List.all_eq_true, contains_or_pad_iff, and_assoc]

/-! ### The source's bytes of a group (R62, R120) -/

theorem toNat_pack4 (i0 i1 i2 i3 : Sym) :
    (pack4 i0 i1 i2 i3).toNat = i0.toNat * 262144 + i1.toNat * 4096 + i2.toNat * 64 + i3.toNat := by
  rw [pack4_eq_append, BitVec.toNat_append, BitVec.toNat_append, BitVec.toNat_append,
    ← Nat.shiftLeft_add_eq_or_of_lt i3.isLt, ← Nat.shiftLeft_add_eq_or_of_lt i2.isLt,
    ← Nat.shiftLeft_add_eq_or_of_lt i1.isLt, Nat.shiftLeft_eq, Nat.shiftLeft_eq, Nat.shiftLeft_eq]
  omega

@[simp] theorem sourceIdx_symToChar (i : Sym) : sourceIdx (symToChar i) = i.toNat := by
  revert i; decide

@[simp] theorem sourceIdx_padChar : sourceIdx Config.padChar = (0 : Sym).toNat := rfl

/-- The source's bytes of four characters are those of the packed value of their indices. -/
theorem sourceBytes_eq {a b c d : Byte} {i0 i1 i2 i3 : Sym} (h0 : sourceIdx a = i0.toNat) (h1 : sourceIdx b = i1.toNat)
    (h2 : sourceIdx c = i2.toNat) (h3 : sourceIdx d = i3.toNat) :
    sourceBytes a b c d = [byte0 (pack4 i0 i1 i2 i3), byte1 (pack4 i0 i1 i2 i3), byte2 (pack4 i0 i1 i2 i3)] := by
  simp only [sourceBytes, h0, h1, h2, h3, byte0, byte1, byte2, BitVec.extractLsb', toNat_pack4,
    Nat.shiftRight_eq_div_pow, Nat.reducePow, Nat.div_one]

theorem length_sourceDecodeGroups : ∀ str : List Byte, (sourceDecodeGroups str).length = 3 * (str.length / 4)
  | [] | [_] | [_, _] | [_, _, _] => by simp [sourceDecodeGroups]
  | a :: b :: c :: d :: rest => by
    rw [sourceDecodeGroups, List.length_append, length_sourceDecodeGroups rest, sourceBytes]
    simp only [List.length_cons, List.length_nil]
    omega

/-! ### DECODE is the source's decode (R144, R145) -/

theorem PaddedGroups.trailingPads_le {str : List Byte} (h : PaddedGroups str) :
    trailingPads str ≤ (sourceDecodeGroups str).length := by
  obtain ⟨hlen, syms, p, hp, rfl⟩ := h.shape
  rw [trailingPads_append (padChar_not_mem_symbols syms), length_sourceDecodeGroups]
  rw [List.length_append, List.length_replicate] at hlen ⊢
  omega

/-- Symbols in front change nothing of the trailing pads. -/
theorem PaddedGroups.trailingPads_symbols_append {str : List Byte} (h : PaddedGroups str) (syms : List Sym) :
    trailingPads (syms.map symToChar ++ str) = trailingPads str := by
  obtain ⟨-, syms', p, -, rfl⟩ := h.shape
  rw [← List.append_assoc, ← List.map_append, trailingPads_append (padChar_not_mem_symbols _),
    trailingPads_append (padChar_not_mem_symbols _)]

/-- The bytes of padded groups: all groups' bytes less one for each pad. -/
theorem PaddedGroups.decodeGroups_eq {str : List Byte} (h : PaddedGroups str) :
    decodeGroups str =
      .ok ((sourceDecodeGroups str).take ((sourceDecodeGroups str).length - trailingPads str)) := by
  induction h with
  | nil => rfl
  | onePad i0 i1 i2 =>
    have hpads : trailingPads [symToChar i0, symToChar i1, symToChar i2, Config.padChar] = 1 :=
      trailingPads_append (padChar_not_mem_symbols [i0, i1, i2]) 1
    have hbytes := sourceBytes_eq (sourceIdx_symToChar i0) (sourceIdx_symToChar i1) (sourceIdx_symToChar i2)
      sourceIdx_padChar
    rw [decodeGroups_one_pad, hpads, sourceDecodeGroups, hbytes]; rfl
  | twoPads i0 i1 =>
    have hpads : trailingPads [symToChar i0, symToChar i1, Config.padChar, Config.padChar] = 2 :=
      trailingPads_append (padChar_not_mem_symbols [i0, i1]) 2
    have hbytes := sourceBytes_eq (sourceIdx_symToChar i0) (sourceIdx_symToChar i1) sourceIdx_padChar
      sourceIdx_padChar
    rw [decodeGroups_two_pads, hpads, sourceDecodeGroups, hbytes]; rfl
  | @symbols i0 i1 i2 i3 rest hrest ih =>
    have hpads : trailingPads (symToChar i0 :: symToChar i1 :: symToChar i2 :: symToChar i3 :: rest) =
        trailingPads rest := hrest.trailingPads_symbols_append [i0, i1, i2, i3]
    have hbytes := sourceBytes_eq (sourceIdx_symToChar i0) (sourceIdx_symToChar i1) (sourceIdx_symToChar i2)
      (sourceIdx_symToChar i3)
    rw [decodeGroups_symbols, ih, hpads, sourceDecodeGroups, hbytes, List.length_append,
      Nat.add_sub_assoc hrest.trailingPads_le, List.take_length_add_append]; rfl

theorem decodeGroups_eq_sourceDecode (str : List Byte) : decodeGroups str = sourceDecode str := by
  unfold sourceDecode
  split
  next hvalid => exact ((sourceValid_iff str).mp hvalid).decodeGroups_eq
  next hvalid =>
    cases hr : decodeGroups str with
    | error => rfl
    | ok x => exact absurd ((sourceValid_iff str).mpr (paddedGroups_of_decodeGroups hr)) hvalid

/-- Settles O47: both accept the padded groups, and every pad stands for one byte of the final group. -/
theorem decodeStreamIsSourceDecode : Obligations.DecodeStreamIsSourceDecode := by
  unfold Obligations.DecodeStreamIsSourceDecode
  exact fun z1 z2 z3 str s => by rw [decodeStream_eq, decodeGroups_eq_sourceDecode]

/-- Settles O51: the source's lengths, where no more bytes are dropped than there are. -/
theorem streamLengths : Obligations.StreamLengths := by
  unfold Obligations.StreamLengths
  refine ⟨fun y1 y2 x s => ⟨_, encodeStream_eq .., ?_, length_sourceEncode x⟩, fun z1 z2 z3 str x s h => ?_⟩
  · rw [length_sourceEncode, Nat.mul_mod_right]
  · rw [decodeStream_eq] at h
    have hok : decodeGroups str = .ok x := by injection h
    have hgroups := paddedGroups_of_decodeGroups hok
    obtain ⟨hlen, -⟩ := hgroups.shape
    have hle := hgroups.trailingPads_le
    rw [hgroups.decodeGroups_eq] at hok
    injection hok with hx
    rw [← hx, List.length_take, length_sourceDecodeGroups]
    rw [length_sourceDecodeGroups] at hle
    omega

/-! ### The validation-only pass (R106, R146) -/

theorem State.present_v_gin (g : GroupIn) (s : State) : s.present (.v g.gin) = s.driveV g := by
  rw [State.present, GroupIn.ofGin_gin]

theorem evaluate_of_encode_v_gin {i : Instr} {g : GroupIn} (h : encode i = .v g.gin) (s : State) :
    evaluate i s = .next (s.driveV g) := by
  rw [evaluate_eq_present, h, State.present_v_gin]

theorem evaluate_valMid (c0 c1 c2 c3 : Byte) (s : State) :
    evaluate (.valMid c0 c1 c2 c3) s = .next (s.driveV ⟨true, false, c0, c1, c2, c3⟩) :=
  evaluate_of_encode_v_gin rfl s

theorem evaluate_valLast (c0 c1 c2 c3 : Byte) (s : State) :
    evaluate (.valLast c0 c1 c2 c3) s = .next (s.driveV ⟨true, true, c0, c1, c2, c3⟩) :=
  evaluate_of_encode_v_gin rfl s

theorem evaluate_valShort (last : Bool) (c0 c1 c2 c3 : Byte) (s : State) :
    evaluate (.valShort last c0 c1 c2 c3) s = .next (s.driveV ⟨false, last, c0, c1, c2, c3⟩) :=
  evaluate_of_encode_v_gin rfl s

theorem DecOut.exists_before_eq_ok_iff (o : DecOut) (r : Except InvalidBase64Format (List Byte)) :
    (∃ x, o.before r = .ok x) ↔ o.err = false ∧ ∃ y, r = .ok y := by
  constructor
  · rintro ⟨x, hx⟩
    exact DecOut.before_eq_ok hx
  · rintro ⟨herr, y, rfl⟩
    exact ⟨o.bytes ++ y, by rw [DecOut.before, herr]; rfl⟩

/-- Unit V errs on some group exactly when unit D does: the verdicts are the same function. -/
theorem trace_validateOps (z1 z2 z3 : Byte) : ∀ (str : List Byte) (s : State), ∃ ts,
    trace (validateOps z1 z2 z3 str) s = .next ts ∧
      (ts.any (fun t => t.valOut.err) = false ↔ ∃ x, decodeGroups str = .ok x)
  | [], s => ⟨[], rfl, by simp [decodeGroups]⟩
  | [a], s | [a, b], s | [a, b, c], s =>
    ⟨_, trace_cons (evaluate_valShort ..) rfl,
      by simp [decodeGroups, State.driveV, valUnit_short, verdictShort_eq]⟩
  | [a, b, c, d], s => by
    refine ⟨_, trace_cons (evaluate_valLast ..) rfl, ?_⟩
    rw [decodeGroups_last, DecOut.exists_before_eq_ok_iff]
    simp [State.driveV, decUnit]
  | a :: b :: c :: d :: e :: rest, s => by
    obtain ⟨ts, hrun, hts⟩ := trace_validateOps z1 z2 z3 (e :: rest) (s.driveV ⟨true, false, a, b, c, d⟩)
    refine ⟨_, trace_cons (evaluate_valMid ..) hrun, ?_⟩
    rw [decodeGroups_more, DecOut.exists_before_eq_ok_iff, ← hts, List.any_cons, Bool.or_eq_false_iff]; rfl

/-- The validation-only pass answers whether DECODE decodes. -/
theorem validateStream_eq (z1 z2 z3 : Byte) (str : List Byte) (s : State) : ∃ ok,
    validateStream z1 z2 z3 str s = .next ok ∧ (ok = true ↔ ∃ x, decodeGroups str = .ok x) := by
  obtain ⟨ts, hrun, hts⟩ := trace_validateOps z1 z2 z3 str s
  exact ⟨_, by rw [validateStream, hrun, joinTrace_next], by rw [Bool.not_eq_true', hts]⟩

/-- Settles O49: both are told by the string alone. -/
theorem validationPassAgreesWithDecode : Obligations.ValidationPassAgreesWithDecode := by
  unfold Obligations.ValidationPassAgreesWithDecode
  intro z1 z2 z3 str s s'
  obtain ⟨ok, hrun, hok⟩ := validateStream_eq z1 z2 z3 str s
  exact ⟨ok, _, hrun, decodeStream_eq .., hok⟩

/-- Settles O48: the pass accepts what DECODE decodes, and those are the padded groups. -/
theorem groupChecksAreStringCheck : Obligations.GroupChecksAreStringCheck := by
  unfold Obligations.GroupChecksAreStringCheck
  intro z1 z2 z3 str s
  obtain ⟨ok, hrun, hok⟩ := validateStream_eq z1 z2 z3 str s
  have hgroups : (∃ x, decodeGroups str = .ok x) ↔ PaddedGroups str :=
    ⟨fun ⟨_, hx⟩ => paddedGroups_of_decodeGroups hx, fun h => ⟨_, h.decodeGroups_eq⟩⟩
  rw [hgroups, paddedGroups_iff, symbolsThenPads_iff] at hok
  exact ⟨ok, hrun, hok⟩

/-! ### Re-encoding (R150) -/

/-- Four symbols hold no discarded bits. -/
theorem discardedBitsZero_symbols (i0 i1 i2 i3 : Sym) (rest : List Byte) :
    discardedBitsZero (symToChar i0 :: symToChar i1 :: symToChar i2 :: symToChar i3 :: rest) =
      discardedBitsZero rest := by
  cases rest with
  | nil => simp [discardedBitsZero, symToChar_ne_padChar]
  | cons => rfl

theorem discardedBitsZero_one_pad (i0 i1 i2 : Sym) :
    discardedBitsZero [symToChar i0, symToChar i1, symToChar i2, Config.padChar] =
      decide (i2.extractLsb' 0 2 = 0) := by
  simp [discardedBitsZero, symToChar_ne_padChar]

theorem discardedBitsZero_two_pads (i0 i1 : Sym) :
    discardedBitsZero [symToChar i0, symToChar i1, Config.padChar, Config.padChar] =
      decide (i1.extractLsb' 0 4 = 0) := by
  simp [discardedBitsZero]

/-- The first field holds no bit of the last two bytes, and the second none of the last. -/
theorem field0_pack3_low (e0 e1 e2 e1' e2' : Byte) : field0 (pack3 e0 e1 e2) = field0 (pack3 e0 e1' e2') := by
  rw [field0_pack3, field0_pack3]

theorem field1_pack3_low (e0 e1 e2 e2' : Byte) : field1 (pack3 e0 e1 e2) = field1 (pack3 e0 e1 e2') := by
  rw [field1_pack3, field1_pack3]

/-- With the third byte zero the third field is the third symbol when that has no bit in the third byte. -/
theorem field2_masked_eq_iff (i0 i1 i2 i3 : Sym) :
    field2 (pack3 (byte0 (pack4 i0 i1 i2 i3)) (byte1 (pack4 i0 i1 i2 i3)) 0) = i2 ↔ i2.extractLsb' 0 2 = 0 := by
  obtain ⟨-, htop⟩ := (byte1_pack4_eq_iff i0 i1 i2 i3 _).mp rfl
  have hsplit := append_eq_iff (n := 4) (m := 2) (i2.extractLsb' 2 4) 0 i2
  rw [field2_pack3, ← htop]
  exact hsplit.trans ⟨fun h => h.2.symm, fun h => ⟨rfl, h.symm⟩⟩

/-- With the second byte zero the second field is the second symbol when that has no bit in the second byte. -/
theorem field1_masked_eq_iff (i0 i1 i2 i3 : Sym) :
    field1 (pack3 (byte0 (pack4 i0 i1 i2 i3)) 0 0) = i1 ↔ i1.extractLsb' 0 4 = 0 := by
  obtain ⟨-, htop⟩ := (byte0_pack4_eq_iff i0 i1 i2 i3 _).mp rfl
  have hsplit := append_eq_iff (n := 2) (m := 4) (i1.extractLsb' 4 2) 0 i1
  rw [field1_pack3, ← htop]
  exact hsplit.trans ⟨fun h => h.2.symm, fun h => ⟨rfl, h.symm⟩⟩

theorem field0_pack3_pack4 (i0 i1 i2 i3 : Sym) (e1 e2 : Byte) :
    field0 (pack3 (byte0 (pack4 i0 i1 i2 i3)) e1 e2) = i0 := by
  rw [field0_pack3_low _ e1 e2 (byte1 (pack4 i0 i1 i2 i3)) (byte2 (pack4 i0 i1 i2 i3)), pack3_bytes, field0_pack4]

theorem field1_pack3_pack4 (i0 i1 i2 i3 : Sym) (e2 : Byte) :
    field1 (pack3 (byte0 (pack4 i0 i1 i2 i3)) (byte1 (pack4 i0 i1 i2 i3)) e2) = i1 := by
  rw [field1_pack3_low _ _ e2 (byte2 (pack4 i0 i1 i2 i3)), pack3_bytes, field1_pack4]

/-- Of padded groups only the bits that fall in no byte are not encoded again. -/
theorem PaddedGroups.sourceEncode_eq_iff {str : List Byte} (h : PaddedGroups str) : ∀ {x : List Byte},
    decodeGroups str = .ok x → (sourceEncode x = str ↔ discardedBitsZero str = true) := by
  induction h with
  | nil =>
    rintro _ ⟨⟩
    exact iff_of_true rfl rfl
  | onePad i0 i1 i2 =>
    intro x hx
    rw [decodeGroups_one_pad] at hx
    injection hx with hx
    rw [← hx, sourceEncode_two, discardedBitsZero_one_pad, field0_pack3_pack4, field1_pack3_pack4, decide_eq_true_iff,
      ← field2_masked_eq_iff i0 i1 i2 0]
    simp [symToChar_injective.eq_iff]
  | twoPads i0 i1 =>
    intro x hx
    rw [decodeGroups_two_pads] at hx
    injection hx with hx
    rw [← hx, sourceEncode_one, discardedBitsZero_two_pads, field0_pack3_pack4, decide_eq_true_iff,
      ← field1_masked_eq_iff i0 i1 0 0]
    simp [symToChar_injective.eq_iff]
  | symbols i0 i1 i2 i3 hrest ih =>
    intro x hx
    rw [decodeGroups_symbols, hrest.decodeGroups_eq] at hx
    injection hx with hx
    rw [← hx, discardedBitsZero_symbols, ← ih hrest.decodeGroups_eq]
    simp [sourceEncode_three, sourceChars_eq]

/-- Settles O53: symbols and pads come back where no discarded bit was set; every byte sequence is the decoding of its encoding. -/
theorem reencodingOfDecoded : Obligations.ReencodingOfDecoded := by
  unfold Obligations.ReencodingOfDecoded
  refine ⟨fun y1 y2 z1 z2 z3 str x s s' h => ?_, fun y1 y2 z1 z2 z3 s => ⟨?_, ?_, ?_⟩, fun z1 z2 z3 x s => ?_⟩
  · rw [decodeStream_eq] at h
    have hok : decodeGroups str = .ok x := by injection h
    rw [encodeStream_eq, ← (paddedGroups_of_decodeGroups hok).sourceEncode_eq_iff hok]
    exact ⟨fun h => by injection h, congrArg _⟩
  · exact (decodeStream_eq ..).trans (congrArg _ (decodeGroups_two_pads 19 17))
  · exact (decodeStream_eq ..).trans (congrArg _ (decodeGroups_two_pads 19 16))
  · exact (encodeStream_eq ..).trans (congrArg _ (sourceEncode_one 0x4D))
  · exact ⟨sourceEncode x, by rw [decodeStream_eq, decodeGroups_sourceEncode]⟩

/-! ### The software around the block (R156 to R159) -/

section Surround
variable {Text : Type} (conv : TextConverter Text)

theorem obfuscate_eq (y1 y2 : Byte) (text : Text) (s : State) :
    obfuscate conv y1 y2 text s = .next (sourceEncode (invert (conv.textToBytes text))) := encodeStream_eq ..

theorem deobfuscate_eq (z1 z2 z3 : Byte) (str : List Byte) (s : State) :
    deobfuscate conv z1 z2 z3 str s = .next (textOfDecoded conv (decodeGroups str)) := by
  rw [deobfuscate, decodeStream_eq]

/-- The inverter and the converter only see what is decoded. -/
theorem textOfDecoded_eq_error_iff (r : Except InvalidBase64Format (List Byte)) (e : InvalidBase64Format) :
    textOfDecoded conv r = .error e ↔ r = .error e := by
  cases r <;> simp [textOfDecoded]

end Surround

/-- Settles O56: decoding undoes encoding, the second inversion the first, and the converter's law does the rest. -/
theorem obfuscationRoundTrip : Obligations.ObfuscationRoundTrip := by
  unfold Obligations.ObfuscationRoundTrip
  refine fun Text conv y1 y2 z1 z2 z3 text s s' => ⟨_, obfuscate_eq .., ?_, fun hempty => ?_⟩
  · rw [deobfuscate_eq, decodeGroups_sourceEncode, textOfDecoded, invert_invert, conv.roundTrip]
  · rw [hempty]; rfl

/-- Settles O57: the error of DECODE is passed on, and nothing else raises one. -/
theorem deobfuscationPassesErrorOn : Obligations.DeobfuscationPassesErrorOn := by
  unfold Obligations.DeobfuscationPassesErrorOn
  exact fun Text conv z1 z2 z3 str s =>
    ⟨_, _, decodeStream_eq .., deobfuscate_eq .., textOfDecoded_eq_error_iff conv _⟩

end Sys2Proof.Machine
end
